-- ==== Sys2Proof/Word.lean ====
section
/-! DEFINITION. The byte, the 32-bit word and the small fixed groups of words the spec's registers are made of
(spec 00_scope.md R7, R9, R10). -/

namespace Sys2Proof

/-- An 8-bit unsigned value (R10). -/
abbrev Byte := BitVec 8

/-- A 32-bit unsigned value (R7, R9). -/
abbrev Word := BitVec 32

/-- Four words: a 4-word register (CHAIN, BLOCK), an AES state with one word per column (R450), or the MD5 working
registers (R570). -/
structure Quad where
  w0 : Word
  w1 : Word
  w2 : Word
  w3 : Word
  deriving DecidableEq, Repr

/-- Eight words: KEY0..KEY7 (R109), HSTATE0..HSTATE7 (R113), or the SHA-256 working registers (R600). -/
structure Oct where
  w0 : Word
  w1 : Word
  w2 : Word
  w3 : Word
  w4 : Word
  w5 : Word
  w6 : Word
  w7 : Word
  deriving DecidableEq, Repr

/-- The all-zero group of four words. -/
def Quad.zero : Quad := ⟨0, 0, 0, 0⟩

/-- The all-zero group of eight words. -/
def Oct.zero : Oct := ⟨0, 0, 0, 0, 0, 0, 0, 0⟩

end Sys2Proof
end

