-- ==== Sys2Proof/Machine/Bits.lean ====
section
/-! DEFINITION. Bytes of a word, byte order, rotations, groups of words, and ROM look-up (spec 00_scope.md R10 to R13,
20_memory.md R204). -/

namespace Sys2Proof.Machine

/-- `byte(w, k)`: byte 0 is the most significant (R10). -/
def byteOf (w : Word) (k : Nat) : Byte := w.extractLsb' (24 - 8 * k) 8

/-- `word(b0, b1, b2, b3)`: b0 is the most significant (R10). -/
def wordOf (b0 b1 b2 b3 : Byte) : Word := b0 ++ b1 ++ b2 ++ b3

/-- `rotl32` (R12). -/
def rotl32 (x : Word) (n : Nat) : Word := (x <<< n) ||| (x >>> (32 - n))

/-- `rotr32` (R12). -/
def rotr32 (x : Word) (n : Nat) : Word := (x >>> n) ||| (x <<< (32 - n))

/-- `BE32` (R12). -/
def be32 (w : Word) : List Byte := [byteOf w 0, byteOf w 1, byteOf w 2, byteOf w 3]

/-- `LE32` (R12): least significant byte first. -/
def le32 (w : Word) : List Byte := [byteOf w 3, byteOf w 2, byteOf w 1, byteOf w 0]

/-- `BE64` (R12). -/
def be64 (w : BitVec 64) : List Byte := be32 (w.extractLsb' 32 32) ++ be32 (w.extractLsb' 0 32)

/-- `LE64` (R12). -/
def le64 (w : BitVec 64) : List Byte := le32 (w.extractLsb' 0 32) ++ le32 (w.extractLsb' 32 32)

/-- Byte `i` of a byte string, 0 past its end. -/
def byteAt (s : List Byte) (i : Nat) : Byte := s.getD i 0

/-- The big-endian word of the four bytes of `s` from byte `i` (R204). -/
def beWord (s : List Byte) (i : Nat) : Word :=
  wordOf (byteAt s i) (byteAt s (i + 1)) (byteAt s (i + 2)) (byteAt s (i + 3))

/-- The little-endian word of the four bytes of `s` from byte `i` (46_md5.md R576). -/
def leWord (s : List Byte) (i : Nat) : Word :=
  wordOf (byteAt s (i + 3)) (byteAt s (i + 2)) (byteAt s (i + 1)) (byteAt s i)

/-- Load of a 16-byte block into four words, big-endian (R204, R450). -/
def load16 (s : List Byte) : Quad := ⟨beWord s 0, beWord s 4, beWord s 8, beWord s 12⟩

/-- Store of four words to 16 bytes, the inverse of `load16` (R204). -/
def store16 (q : Quad) : List Byte := be32 q.w0 ++ be32 q.w1 ++ be32 q.w2 ++ be32 q.w3

/-- Byte-wise exclusive-or of two byte strings of one length (R12). -/
def xorBytes (s t : List Byte) : List Byte := List.zipWith (· ^^^ ·) s t

/-- An entry of a ROM written as rows of 16 bytes (41_key_schedule.md R413, R414). -/
def romByte (rows : List Nat) (i : Nat) : Byte := BitVec.ofNat 8 (rows.getD (i / 16) 0 >>> (8 * (15 - i % 16)))

/-- An entry of a ROM written as rows of 4 words (46_md5.md R571, 47_sha256.md R601). -/
def romWord (rows : List Nat) (i : Nat) : Word := BitVec.ofNat 32 (rows.getD (i / 4) 0 >>> (32 * (3 - i % 4)))

end Sys2Proof.Machine

namespace Sys2Proof

/-- Word `c` of a 4-word register (R13). -/
def Quad.get (q : Quad) : Nat → Word
  | 0 => q.w0
  | 1 => q.w1
  | 2 => q.w2
  | _ => q.w3

/-- A 4-word register with word `c` replaced. -/
def Quad.set (q : Quad) (c : Nat) (v : Word) : Quad :=
  match c with
  | 0 => { q with w0 := v }
  | 1 => { q with w1 := v }
  | 2 => { q with w2 := v }
  | _ => { q with w3 := v }

/-- Word-wise exclusive-or of two 4-word values (44_cbc.md R500). -/
def Quad.xor (p q : Quad) : Quad := ⟨p.w0 ^^^ q.w0, p.w1 ^^^ q.w1, p.w2 ^^^ q.w2, p.w3 ^^^ q.w3⟩

/-- A word function on each of the four words. -/
def Quad.map (f : Word → Word) (q : Quad) : Quad := ⟨f q.w0, f q.w1, f q.w2, f q.w3⟩

/-- Word `i` of an 8-word register (R13). -/
def Oct.get (o : Oct) : Nat → Word
  | 0 => o.w0
  | 1 => o.w1
  | 2 => o.w2
  | 3 => o.w3
  | 4 => o.w4
  | 5 => o.w5
  | 6 => o.w6
  | _ => o.w7

/-- An 8-word register with word `i` replaced. -/
def Oct.set (o : Oct) (i : Nat) (v : Word) : Oct :=
  match i with
  | 0 => { o with w0 := v }
  | 1 => { o with w1 := v }
  | 2 => { o with w2 := v }
  | 3 => { o with w3 := v }
  | 4 => { o with w4 := v }
  | 5 => { o with w5 := v }
  | 6 => { o with w6 := v }
  | _ => { o with w7 := v }

/-- The eight words in order. -/
def Oct.toList (o : Oct) : List Word := [o.w0, o.w1, o.w2, o.w3, o.w4, o.w5, o.w6, o.w7]

/-- Words 0..3 of an 8-word register. -/
def Oct.lowQuad (o : Oct) : Quad := ⟨o.w0, o.w1, o.w2, o.w3⟩

/-- An 8-word register with words 0..3 replaced. -/
def Oct.withLowQuad (o : Oct) (q : Quad) : Oct := { o with w0 := q.w0, w1 := q.w1, w2 := q.w2, w3 := q.w3 }

end Sys2Proof
end

