-- ==== Sys2Proof/Machine/Gf.lean ====
section
/-! DEFINITION. GF(2^8) arithmetic, the S-boxes and the word functions of the key schedule (41_key_schedule.md R410 to R417). -/

namespace Sys2Proof.Machine

/-- `xtime(a)` (R411): doubling, reduced by 0x11b. -/
def xtime (a : Byte) : Byte := if a.getLsbD 7 then (a <<< 1) ^^^ 0x1b#8 else a <<< 1

/-- `n` rounds of the peasant multiplication of R410, with partial product `p`. -/
def gmulLoop : Nat → Byte → Byte → Byte → Byte
  | 0, _, _, p => p
  | n + 1, a, b, p => gmulLoop n (xtime a) (b >>> 1) (if b.getLsbD 0 then p ^^^ a else p)

/-- `a • b`, the GF(2^8) product (R410). -/
def gmul (a b : Byte) : Byte := gmulLoop 8 a b 0

/-- The S-box table, one row for each high nibble (R413). -/
def sboxRows : List Nat :=
  [0x637c777bf26b6fc53001672bfed7ab76, 0xca82c97dfa5947f0add4a2af9ca472c0,
   0xb7fd9326363ff7cc34a5e5f171d83115, 0x04c723c31896059a071280e2eb27b275,
   0x09832c1a1b6e5aa0523bd6b329e32f84, 0x53d100ed20fcb15b6acbbe394a4c58cf,
   0xd0efaafb434d338545f9027f503c9fa8, 0x51a3408f929d38f5bcb6da2110fff3d2,
   0xcd0c13ec5f974417c4a77e3d645d1973, 0x60814fdc222a908846eeb814de5e0bdb,
   0xe0323a0a4906245cc2d3ac629195e479, 0xe7c8376d8dd54ea96c56f4ea657aae08,
   0xba78252e1ca6b4c6e8dd741f4bbd8b8a, 0x703eb5664803f60e613557b986c11d9e,
   0xe1f8981169d98e949b1e87e9ce5528df, 0x8ca1890dbfe6426841992d0fb054bb16]

/-- The inverse S-box table, one row for each high nibble (R414). -/
def invSboxRows : List Nat :=
  [0x52096ad53036a538bf40a39e81f3d7fb, 0x7ce339829b2fff87348e4344c4dee9cb,
   0x547b9432a6c2233dee4c950b42fac34e, 0x082ea16628d924b2765ba2496d8bd125,
   0x72f8f66486689816d4a45ccc5d65b692, 0x6c704850fdedb9da5e154657a78d9d84,
   0x90d8ab008cbcd30af7e45805b8b34506, 0xd02c1e8fca3f0f02c1afbd0301138a6b,
   0x3a9111414f67dcea97f2cfcef0b4e673, 0x96ac7422e7ad3585e2f937e81c75df6e,
   0x47f11a711d29c5896fb7620eaa18be1b, 0xfc563e4bc6d279209adbc0fe78cd5af4,
   0x1fdda8338807c731b11210592780ec5f, 0x60517fa919b54a0d2de57a9f93c99cef,
   0xa0e03b4dae2af5b0c8ebbb3c83539961, 0x172b047eba77d626e169146355210c7d]

/-- `S[x]` (R413). -/
def sbox (x : Byte) : Byte := romByte sboxRows x.toNat

/-- `Si[x]` (R414). -/
def invSbox (x : Byte) : Byte := romByte invSboxRows x.toNat

/-- A byte function on the four bytes of a word. -/
def mapBytes (f : Byte → Byte) (w : Word) : Word :=
  wordOf (f (byteOf w 0)) (f (byteOf w 1)) (f (byteOf w 2)) (f (byteOf w 3))

/-- `SubWord` (R415). -/
def subWord (w : Word) : Word := mapBytes sbox w

/-- The inverse S-box on the four bytes of a word (42_aes_round.md R452). -/
def invSubWord (w : Word) : Word := mapBytes invSbox w

/-- `RotWord` (R415). -/
def rotWord (w : Word) : Word := wordOf (byteOf w 1) (byteOf w 2) (byteOf w 3) (byteOf w 0)

/-- `Rcon[j]` (R416), for j = 1 .. 10. -/
def rcon (j : Nat) : Byte :=
  [0x01#8, 0x02#8, 0x04#8, 0x08#8, 0x10#8, 0x20#8, 0x40#8, 0x80#8, 0x1b#8, 0x36#8].getD (j - 1) 0

/-- The round-constant word, `Rcon[j] << 24` (R416). -/
def rconWord (j : Nat) : Word := wordOf (rcon j) 0 0 0

/-- One row of a 4x4 GF(2^8) matrix applied to the column (a0, a1, a2, a3) (R417). -/
def gfRow (c0 c1 c2 c3 a0 a1 a2 a3 : Byte) : Byte := gmul c0 a0 ^^^ gmul c1 a1 ^^^ gmul c2 a2 ^^^ gmul c3 a3

/-- The matrix with first row (c0, c1, c2, c3), each next row turned right by one, applied to a word read as a column: the
form of both matrices of R417. -/
def gfColumn (c0 c1 c2 c3 : Byte) (w : Word) : Word :=
  let a0 := byteOf w 0
  let a1 := byteOf w 1
  let a2 := byteOf w 2
  let a3 := byteOf w 3
  wordOf (gfRow c0 c1 c2 c3 a0 a1 a2 a3) (gfRow c3 c0 c1 c2 a0 a1 a2 a3)
    (gfRow c2 c3 c0 c1 a0 a1 a2 a3) (gfRow c1 c2 c3 c0 a0 a1 a2 a3)

/-- `MixWord` (R417). -/
def mixWord (w : Word) : Word := gfColumn 0x02#8 0x03#8 0x01#8 0x01#8 w

/-- `InvMixWord` (R417). -/
def invMixWord (w : Word) : Word := gfColumn 0x0e#8 0x0b#8 0x0d#8 0x09#8 w

end Sys2Proof.Machine
end

