-- ==== Sys2Proof/Config.lean ====
section
/-! DEFINITION. What the spec leaves to the implementation (00_scope.md R8) and the free values (93_implementation_defined.md
section 2). The two parameters a run is made under are plain data that State carries (log entry 1). A free value is an opaque
constant: nothing can evaluate it or prove a value of it. -/

namespace Sys2Proof

/-- DMEM_UNINIT (R8, R211): what happens when a result depends on a DMEM byte not written since reset. -/
inductive DmemUninit where
  /-- The model faults (the recommended setting). -/
  | fault
  /-- The byte is a free draw, fixed from then on. -/
  | arbitrary
  deriving DecidableEq, Repr

/-- The open parameters of R8 that a rule's result depends on. -/
structure Config where
  /-- DMEM_WORDS, the number of 32-bit words of data memory, 1 .. 16384. -/
  dmemWords : Nat
  /-- DMEM_UNINIT. -/
  dmemUninit : DmemUninit
  deriving DecidableEq, Repr

/-- The defaults of R8. -/
def Config.default : Config := { dmemWords := 16384, dmemUninit := .fault }

/-- The legal values of R8. -/
def Config.legal (c : Config) : Bool := decide (1 ≤ c.dmemWords) && decide (c.dmemWords ≤ 16384)

/-- A free draw of a byte: the outputs R210 and R902 leave unspecified (log entries 7 and 8). -/
opaque Config.freeByte : Nat → Byte

/-- A free draw of a word: the host reads R212, R901 and R912 leave unspecified (log entries 6 and 9). -/
opaque Config.freeWord : Nat → Word

/-- A free choice between two values: STATUS.KEY_VALID, NR and NK while BUSY (R105, log entry 6). -/
opaque Config.freeBool : Nat → Bool

/-- The content of an unwritten DMEM byte under DMEM_UNINIT = arbitrary, for the number of times DMEM content has become
unspecified and the byte's offset (R211, R901, log entry 2). -/
opaque Config.freeDmemByte : Nat → Nat → Byte

end Sys2Proof
end

