-- ==== Sys2Proof/Syntax.lean ====
section
/-! DEFINITION. The commands, one constructor for each row of the opcode table (30_encoding.md R304). Operands are already
taken out of the command word; every other operand of a command comes from registers (R302). -/

namespace Sys2Proof

/-- The hash algorithm a format-H command selects (R302): ALG = 0 is MD5, ALG = 1 is SHA-256. -/
inductive Alg where
  | md5
  | sha256
  deriving DecidableEq, Repr

/-- The commands of R304, in the table's order. -/
inductive Instr where
  | nop
  | keyexp
  | keyclr
  | aesEnc
  | aesDec
  | subbytes
  | invsubbytes
  | shiftrows
  | invshiftrows
  | mixcolumns
  | invmixcolumns
  | addrk (round : Nat)
  | addirk (round : Nat)
  | gfmul (ga gb : Byte)
  | cbcEncBlk
  | cbcDecBlk
  | cbcEncBuf
  | cbcDecBuf
  | pad
  | unpad
  | encrypt
  | decrypt
  | hashInit (alg : Alg)
  | hashUpdate (alg : Alg)
  | hashFinal (alg : Alg)
  | hash (alg : Alg)
  | hmac (alg : Alg)
  | pbkdf2 (alg : Alg)
  | evpkdf (alg : Alg)
  deriving DecidableEq, Repr

end Sys2Proof
end

