-- ==== Sys2Proof/WellFormed.lean ====
section
/-! DEFINITION. Which terms of Instr stand for a command word: ROUND is a 4-bit field (30_encoding.md R301, R302). Every other
operand has its field's width by its type. -/

namespace Sys2Proof

/-- The operands fit their fields: ROUND is 0 .. 15. -/
def Instr.wf : Instr → Bool
  | .addrk round => decide (round < 16)
  | .addirk round => decide (round < 16)
  | .nop => true
  | .keyexp => true
  | .keyclr => true
  | .aesEnc => true
  | .aesDec => true
  | .subbytes => true
  | .invsubbytes => true
  | .shiftrows => true
  | .invshiftrows => true
  | .mixcolumns => true
  | .invmixcolumns => true
  | .gfmul _ _ => true
  | .cbcEncBlk => true
  | .cbcDecBlk => true
  | .cbcEncBuf => true
  | .cbcDecBuf => true
  | .pad => true
  | .unpad => true
  | .encrypt => true
  | .decrypt => true
  | .hashInit _ => true
  | .hashUpdate _ => true
  | .hashFinal _ => true
  | .hash _ => true
  | .hmac _ => true
  | .pbkdf2 _ => true
  | .evpkdf _ => true

end Sys2Proof
end

