-- ==== Sys2Proof/Decode.lean ====
section
/-! DEFINITION. Decoding a command word, in the order of 30_encoding.md R303, and the encoder beside it. -/

namespace Sys2Proof

/-- Why a command word is illegal (R303, R305). All three complete with IllegalCommand. -/
inductive DecodeError where
  | unassignedOpcode
  | mustBeZero
  | reservedAlg
  deriving DecidableEq, Repr

/-- A command's format (R301), with what its operand fields build. -/
inductive Shape where
  | n (i : Instr)
  | h (make : Alg → Instr)
  | r (make : Nat → Instr)
  | g (make : Byte → Byte → Instr)

/-- The must-be-zero mask of a format (R301). -/
def Shape.mbz : Shape → Word
  | .n _ => 0xFFFFFF00#32
  | .h _ => 0xFFFFF000#32
  | .r _ => 0xFFFF0F00#32
  | .g _ => 0x0000FF00#32

/-- The opcode map, groups 0x00 to 0x2F (R304). -/
def opcodesLow : List (Byte × Shape) :=
  [(0x00#8, .n .nop), (0x01#8, .n .keyexp), (0x02#8, .n .keyclr),
   (0x10#8, .n .aesEnc), (0x11#8, .n .aesDec),
   (0x18#8, .n .subbytes), (0x19#8, .n .invsubbytes),
   (0x1A#8, .n .shiftrows), (0x1B#8, .n .invshiftrows),
   (0x1C#8, .n .mixcolumns), (0x1D#8, .n .invmixcolumns),
   (0x1E#8, .r .addrk), (0x1F#8, .r .addirk), (0x20#8, .g .gfmul)]

/-- The opcode map, groups 0x30 to 0x5F (R304). -/
def opcodesHigh : List (Byte × Shape) :=
  [(0x30#8, .n .cbcEncBlk), (0x31#8, .n .cbcDecBlk), (0x32#8, .n .cbcEncBuf), (0x33#8, .n .cbcDecBuf),
   (0x38#8, .n .pad), (0x39#8, .n .unpad), (0x3A#8, .n .encrypt), (0x3B#8, .n .decrypt),
   (0x40#8, .h .hashInit), (0x41#8, .h .hashUpdate), (0x42#8, .h .hashFinal), (0x43#8, .h .hash),
   (0x48#8, .h .hmac), (0x50#8, .h .pbkdf2), (0x51#8, .h .evpkdf)]

/-- The opcode map of R304. -/
def opcodes : List (Byte × Shape) := opcodesLow ++ opcodesHigh

/-- The ALG field (R302): 0 is MD5, 1 is SHA-256, every other value is illegal. -/
def algOfField (f : BitVec 4) : Option Alg :=
  if f = 0#4 then some .md5 else if f = 1#4 then some .sha256 else none

/-- The command a legal word of a format stands for: the operand fields, unsigned and unscaled (R302). -/
def build (sh : Shape) (c : Word) : Except DecodeError Instr :=
  match sh with
  | .n i => .ok i
  | .h make =>
    match algOfField (c.extractLsb' 8 4) with
    | some a => .ok (make a)
    | none => .error .reservedAlg
  | .r make => .ok (make (c.extractLsb' 12 4).toNat)
  | .g make => .ok (make (c.extractLsb' 16 8) (c.extractLsb' 24 8))

/-- R303: the opcode, then the must-be-zero bits, then ALG. -/
def decode (c : Word) : Except DecodeError Instr :=
  match opcodes.lookup (c.extractLsb' 0 8) with
  | none => .error .unassignedOpcode
  | some sh => if c &&& sh.mbz ≠ 0#32 then .error .mustBeZero else build sh c

/-- The opcode of a command (R304). -/
def Instr.opcode : Instr → Byte
  | .nop => 0x00#8
  | .keyexp => 0x01#8
  | .keyclr => 0x02#8
  | .aesEnc => 0x10#8
  | .aesDec => 0x11#8
  | .subbytes => 0x18#8
  | .invsubbytes => 0x19#8
  | .shiftrows => 0x1A#8
  | .invshiftrows => 0x1B#8
  | .mixcolumns => 0x1C#8
  | .invmixcolumns => 0x1D#8
  | .addrk _ => 0x1E#8
  | .addirk _ => 0x1F#8
  | .gfmul _ _ => 0x20#8
  | .cbcEncBlk => 0x30#8
  | .cbcDecBlk => 0x31#8
  | .cbcEncBuf => 0x32#8
  | .cbcDecBuf => 0x33#8
  | .pad => 0x38#8
  | .unpad => 0x39#8
  | .encrypt => 0x3A#8
  | .decrypt => 0x3B#8
  | .hashInit _ => 0x40#8
  | .hashUpdate _ => 0x41#8
  | .hashFinal _ => 0x42#8
  | .hash _ => 0x43#8
  | .hmac _ => 0x48#8
  | .pbkdf2 _ => 0x50#8
  | .evpkdf _ => 0x51#8

/-- The ALG field of an algorithm (R302). -/
def Alg.field : Alg → BitVec 4
  | .md5 => 0#4
  | .sha256 => 1#4

/-- Bits 31:8 of the command word: the operand fields in the places of R301. -/
def Instr.operandBits : Instr → BitVec 24
  | .addrk round => BitVec.ofNat 16 0 ++ BitVec.ofNat 4 round ++ 0#4
  | .addirk round => BitVec.ofNat 16 0 ++ BitVec.ofNat 4 round ++ 0#4
  | .gfmul ga gb => gb ++ ga ++ 0#8
  | .hashInit a => 0#20 ++ a.field
  | .hashUpdate a => 0#20 ++ a.field
  | .hashFinal a => 0#20 ++ a.field
  | .hash a => 0#20 ++ a.field
  | .hmac a => 0#20 ++ a.field
  | .pbkdf2 a => 0#20 ++ a.field
  | .evpkdf a => 0#20 ++ a.field
  | .nop => 0#24
  | .keyexp => 0#24
  | .keyclr => 0#24
  | .aesEnc => 0#24
  | .aesDec => 0#24
  | .subbytes => 0#24
  | .invsubbytes => 0#24
  | .shiftrows => 0#24
  | .invshiftrows => 0#24
  | .mixcolumns => 0#24
  | .invmixcolumns => 0#24
  | .cbcEncBlk => 0#24
  | .cbcDecBlk => 0#24
  | .cbcEncBuf => 0#24
  | .cbcDecBuf => 0#24
  | .pad => 0#24
  | .unpad => 0#24
  | .encrypt => 0#24
  | .decrypt => 0#24

/-- The command word of a well-formed command (R301, R304). -/
def encode (i : Instr) : Word := i.operandBits ++ i.opcode

/-- The command the decoder reads from an opcode-table word: the low `nbits` bits of `w`, every bit above them 0. A command
is one 32-bit word (R306). -/
def decodeTableWord (nbits w : Nat) : Option Instr :=
  match decode (BitVec.ofNat 32 (w % 2 ^ nbits)) with
  | .ok i => some i
  | .error _ => none

end Sys2Proof
end

