-- ==== Sys2Proof/Machine/State.lean ====
section
/-! DEFINITION. The state of the block and of its surroundings, as plain data, and the state after power-on reset
(10_state.md, 70_reset_and_hazards.md R900). -/

namespace Sys2Proof.Machine

/-- The engine phase (10_state.md R140): idle, or running a latched command word. `left` is the number of engine steps until
completion, the model's own (log entry 3). -/
inductive Phase where
  | idle
  | run (c : Word) (left : Nat)
  deriving DecidableEq, Repr

/-- Who moves in a step (60_exceptions.md R813): the host's next transaction, or the engine. -/
inductive Agent where
  | host
  | engine
  deriving DecidableEq, Repr

/-- What the outside world can do to the block: host transactions (20_memory.md R201, 30_encoding.md R307) and the level of
the reset input (70_reset_and_hazards.md R901). Addresses are relative to the block's base. -/
inductive Input where
  /-- WR: an aligned 32-bit write. -/
  | write (addr : BitVec 17) (data : Word)
  /-- RD: an aligned 32-bit read. -/
  | read (addr : BitVec 17)
  /-- POLL: repeat RD until the value under the mask is the given one. -/
  | poll (addr : BitVec 17) (mask value : Word)
  /-- A sub-word transaction, outside the interface (R201). -/
  | subWord (addr : BitVec 17)
  /-- A burst, outside the interface (R201). -/
  | burst (addr : BitVec 17)
  /-- rst_n falls. -/
  | resetLow
  /-- rst_n rises. -/
  | resetHigh
  deriving DecidableEq, Repr

/-- The HMAC/KDF working storage (10_state.md R142): invisible to the host, zero at every completion. -/
structure Scratch where
  k0 : Vector Byte 64
  inner : Vector Byte 32
  u : Vector Byte 32
  t : Vector Byte 32
  prev : Vector Byte 32
  deriving DecidableEq, Repr

/-- The scratch with every byte 0. -/
def Scratch.zero : Scratch :=
  { k0 := Vector.replicate 64 0, inner := Vector.replicate 32 0, u := Vector.replicate 32 0,
    t := Vector.replicate 32 0, prev := Vector.replicate 32 0 }

/-- The errors a command can end with (60_exceptions.md R801). InvalidEncoding (code 3) is never raised and has no
constructor (R803, log entry 18). -/
inductive Err where
  | invalidKeySize
  | invalidPadding
  | internalError
  | illegalCommand
  | addressError
  deriving DecidableEq, Repr

/-- Everything the spec gives the block, the parameters it runs under, and the model's own fields. -/
structure State where
  /-- DMEM_WORDS and DMEM_UNINIT (00_scope.md R8); no step changes it. -/
  cfg : Config
  /-- The engine phase (R140); STATUS.BUSY is 1 exactly when it is `run`. -/
  phase : Phase
  /-- STATUS.DONE (R105). -/
  done : Bool
  /-- STATUS.ERR (R105). -/
  err : Bool
  /-- STATUS.ERRCODE (R105). -/
  errCode : BitVec 4
  /-- KEY_VALID (R105, R133). -/
  keyValid : Bool
  /-- NK (R133). -/
  nk : BitVec 4
  /-- NR (R133). -/
  nr : BitVec 4
  /-- CTRL[2:0]: OVR_IE, ERR_IE, DONE_IE (R106). -/
  ctrl : BitVec 3
  /-- IRQ_STATUS[2:0]: OVR_P, ERR_P, DONE_P (R107). -/
  irqStatus : BitVec 3
  /-- KEY_LEN (R108). -/
  keyLen : Word
  /-- KEY0..KEY7 (R109). -/
  key : Oct
  /-- CHAIN0..CHAIN3 (R111). -/
  chain : Quad
  /-- BLOCK0..BLOCK3 (R112). -/
  block : Quad
  /-- HSTATE0..HSTATE7 (R113). -/
  hstate : Oct
  /-- HLEN = HLEN_HI * 2^32 + HLEN_LO (R114). -/
  hlen : BitVec 64
  /-- RES_LEN (R115). -/
  resLen : Word
  /-- RESULT (R116). -/
  result : Word
  /-- SRC_ADDR (R117). -/
  srcAddr : Word
  /-- SRC_LEN (R117). -/
  srcLen : Word
  /-- DST_ADDR (R117). -/
  dstAddr : Word
  /-- AUX_ADDR (R117). -/
  auxAddr : Word
  /-- AUX_LEN (R117). -/
  auxLen : Word
  /-- SALT_ADDR (R117). -/
  saltAddr : Word
  /-- SALT_LEN (R117). -/
  saltLen : Word
  /-- ITER (R117). -/
  iter : Word
  /-- KDF_WORDS (R117). -/
  kdfWords : Word
  /-- RK[0..59] (R130). -/
  rk : Vector Word 60
  /-- IRK[0..59] (R131). -/
  irk : Vector Word 60
  /-- The HMAC/KDF scratch (R142). -/
  scratch : Scratch
  /-- DMEM (20_memory.md R200): the bytes written since its content became unspecified, by rising offset (log entry 2). -/
  dmem : List Host.Cell
  /-- True while the reset input rst_n is 0 (R901). -/
  rstLow : Bool
  /-- The model's own: how many free draws have been taken (log entry 13). -/
  draws : Nat
  /-- The model's own: how many times DMEM content has become unspecified (log entry 13). -/
  dmemEpoch : Nat
  /-- The value the last host read returned (R213, log entry 13). -/
  rdata : Word
  /-- The host's pending transactions, oldest first (log entry 4). -/
  inputs : List Input
  /-- Whose turn it is, first turn first (log entry 4). -/
  turns : List Agent
  deriving DecidableEq, Repr

/-- Why the machine stops with a fault. -/
inductive Fault where
  /-- A result depends on the DMEM byte at this offset, which was never written, and DMEM_UNINIT = fault (20_memory.md R211).
  Raised by every command that reads DMEM and by a host read of DMEM. Safe: the hardware itself never faults. -/
  | uninitDmem (offset : Nat)
  deriving DecidableEq, Repr

/-- Why the model gives a step no meaning. -/
inductive Refusal where
  /-- An instruction without a meaning; raised by no arm of exec. Safe. -/
  | notModelled (mnemonic : String)
  /-- A host transaction at an address that is no multiple of 4 (20_memory.md R201). Raised by the host's turn. Safe. -/
  | misalignedTransaction
  /-- A sub-word host transaction (R201). Raised by the host's turn. Safe. -/
  | subWordTransaction
  /-- A burst (R201). Raised by the host's turn. Safe. -/
  | burstTransaction
  deriving DecidableEq, Repr

/-- The outcome of a step of this machine. -/
abbrev Result := Host.Outcome State Fault Refusal

/-- The block right after power-on reset (10_state.md R160, 70_reset_and_hazards.md R900), under the default parameters,
with nothing pending and rst_n high. -/
def State.reset : State where
  cfg := Config.default
  phase := .idle
  done := false
  err := false
  errCode := 0
  keyValid := false
  nk := 0
  nr := 0
  ctrl := 0
  irqStatus := 0
  keyLen := 0
  key := Oct.zero
  chain := Quad.zero
  block := Quad.zero
  hstate := Oct.zero
  hlen := 0
  resLen := 0
  result := 0
  srcAddr := 0
  srcLen := 0
  dstAddr := 0
  auxAddr := 0
  auxLen := 0
  saltAddr := 0
  saltLen := 0
  iter := 0
  kdfWords := 0
  rk := Vector.replicate 60 0
  irk := Vector.replicate 60 0
  scratch := Scratch.zero
  dmem := []
  rstLow := false
  draws := 0
  dmemEpoch := 0
  rdata := 0
  inputs := []
  turns := []

end Sys2Proof.Machine

namespace Sys2Proof

/-- LATENCY less one (00_scope.md R8, 70_reset_and_hazards.md R930), for the command word and the state it is issued in: an open
parameter without a body, so that no proof can see it (log entry 3). -/
opaque Config.latency : Word → Machine.State → Nat

end Sys2Proof
end

