-- ==== Sys2Proof/Machine/Flags.lean ====
section
/-! DEFINITION. Error codes, the STATUS word, the interrupt pending bits and the interrupt output (10_state.md R105, R107, R143,
60_exceptions.md R801, R810). -/

namespace Sys2Proof.Machine

/-- The error codes (60_exceptions.md R801). -/
def Err.code : Err → BitVec 4
  | .invalidKeySize => 1#4
  | .invalidPadding => 2#4
  | .internalError => 4#4
  | .illegalCommand => 5#4
  | .addressError => 6#4

/-- STATUS.ERRCODE of a completion (60_exceptions.md R805): 0 on success. -/
def codeOf : Option Err → BitVec 4
  | none => 0#4
  | some e => e.code

/-- The IRQ_STATUS bits a completion sets (60_exceptions.md R805): DONE_P, and ERR_P on an error. -/
def pendingOf : Option Err → BitVec 3
  | none => 0b001#3
  | some _ => 0b011#3

/-- IRQ_STATUS.OVR_P (10_state.md R107). -/
def ovrBit : BitVec 3 := 0b100#3

/-- STATUS.BUSY (10_state.md R140): the phase is RUN. -/
def State.busy (s : State) : Bool :=
  match s.phase with
  | .idle => false
  | .run _ _ => true

/-- The key fields of STATUS, bits 3, 19:16 and 23:20, of a state (10_state.md R105): NR and NK are 0 when KEY_VALID is 0. -/
def keyFields (s : State) : Bool × BitVec 4 × BitVec 4 :=
  if s.keyValid then (true, s.nr, s.nk) else (false, 0#4, 0#4)

/-- The STATUS word with given key fields (KEY_VALID, NR, NK), bit 31 leftmost (10_state.md R105). -/
def statusWith (s : State) (k : Bool × BitVec 4 × BitVec 4) : Word :=
  0#8 ++ k.2.2 ++ k.2.1 ++ 0#4 ++ s.errCode ++ 0#4 ++
    BitVec.ofBool k.1 ++ BitVec.ofBool s.err ++ BitVec.ofBool s.done ++ BitVec.ofBool s.busy

/-- The STATUS word (10_state.md R105). -/
def statusWord (s : State) : Word := statusWith s (keyFields s)

/-- The interrupt output (10_state.md R143, 60_exceptions.md R810): some pending bit is enabled. -/
def State.irq (s : State) : Bool := decide (s.irqStatus &&& s.ctrl ≠ 0#3)

end Sys2Proof.Machine
end

