-- ==== Sys2Proof/Machine/Ops.lean ====
section
/-! DEFINITION. The named operations every command is written over: the completion record and raising an error
(60_exceptions.md R800, R805), DMEM reads and writes (20_memory.md R203, R209), CheckRegion (R206) and free draws. -/

namespace Sys2Proof.Machine

/-- Completion (60_exceptions.md R805) with an error or without: the one operation that ends a command. It writes the
completion record, zeroes the scratch and returns the engine to IDLE. -/
def State.record (e : Option Err) (s : State) : State :=
  { s with
    phase := .idle
    done := true
    err := e.isSome
    errCode := codeOf e
    irqStatus := s.irqStatus ||| pendingOf e
    scratch := Scratch.zero }

/-- Completion of a command that succeeded (R805). -/
def State.finish (s : State) : State := s.record none

/-- `raise E` (60_exceptions.md R800): the command ends with error E, and nothing else changes. -/
def State.raise (e : Err) (s : State) : State := s.record (some e)

/-- A listed byte of memory (20_memory.md R200). -/
def Memory.read : List Host.Cell → Nat → Option Byte
  | [], _ => none
  | (b, v) :: m, a => if a = b then some v else Memory.read m a

/-- Memory with one byte written, the list kept in rising order (20_memory.md R209). -/
def Memory.write : List Host.Cell → Nat → Byte → List Host.Cell
  | [], a, v => [(a, v)]
  | (b, w) :: m, a, v =>
    if a < b then (a, v) :: (b, w) :: m
    else if a = b then (a, v) :: m
    else (b, w) :: Memory.write m a v

/-- Memory with a byte string written from an offset on (20_memory.md R209). -/
def Memory.writeBytes : List Host.Cell → Nat → List Byte → List Host.Cell
  | m, _, [] => m
  | m, a, v :: vs => Memory.writeBytes (Memory.write m a v) (a + 1) vs

/-- The canonical form of memory: offsets strictly rising. An unlisted offset reads as no value, so every listed byte differs
from it (log entry 2). -/
abbrev Memory.wf (m : List Host.Cell) : Prop := m.Pairwise (fun x y => x.1 < y.1)

/-- What an unlisted DMEM offset reads as (20_memory.md R211): no value under `fault`, a free byte fixed since DMEM content
last became unspecified under `arbitrary`. -/
def unlistedByte (c : Config) (epoch a : Nat) : Option Byte :=
  match c.dmemUninit with
  | .fault => none
  | .arbitrary => some (Config.freeDmemByte epoch a)

/-- The DMEM byte at an offset, where it has a value. -/
def State.dmemByte (s : State) (a : Nat) : Option Byte :=
  match Memory.read s.dmem a with
  | some v => some v
  | none => unlistedByte s.cfg s.dmemEpoch a

/-- `MemRead(a, n)` (20_memory.md R203). A byte without a value stops it (R211). -/
def State.memRead (s : State) : Nat → Nat → Except Fault (List Byte)
  | _, 0 => .ok []
  | a, n + 1 =>
    match s.dmemByte a with
    | none => .error (.uninitDmem a)
    | some v =>
      match s.memRead (a + 1) n with
      | .ok vs => .ok (v :: vs)
      | .error f => .error f

/-- `MemWrite(a, n, s)` (20_memory.md R209). -/
def State.memWrite (s : State) (a : Nat) (vs : List Byte) : State :=
  { s with dmem := Memory.writeBytes s.dmem a vs }

/-- The size of DMEM in bytes (20_memory.md R200). -/
def State.dmemBytes (s : State) : Nat := 4 * s.cfg.dmemWords

/-- `CheckRegion(addr, len)` (20_memory.md R206), in unbounded integers. -/
def State.regionOk (s : State) (addr len : Nat) : Bool :=
  decide (addr % 4 = 0) && decide (addr + len ≤ s.dmemBytes)

/-- Go on if the region passes CheckRegion, else `raise AddressError` (R206). -/
def withRegion (s : State) (addr len : Nat) (k : Result) : Result :=
  if s.regionOk addr len then k else .next (s.raise .addressError)

/-- Go on with the bytes of a region (R203, R211). -/
def withBytes (s : State) (a n : Nat) (k : List Byte → Result) : Result :=
  match s.memRead a n with
  | .ok vs => k vs
  | .error f => .fault f

/-- Go on with the bytes of a region if the result depends on them, with the empty string if it does not: only a byte that a
result depends on can fault (20_memory.md R211). -/
def withBytesIf (needed : Bool) (s : State) (a n : Nat) (k : List Byte → Result) : Result :=
  if needed then withBytes s a n k else k []

/-- Go on with the next state of a result. -/
def andThen (r : Result) (k : State → Result) : Result :=
  match r with
  | .next s => k s
  | .fault f => .fault f
  | .refused e => .refused e

/-- The next `n` free bytes after `d` draws. -/
def freeBytes : Nat → Nat → List Byte
  | _, 0 => []
  | d, n + 1 => Config.freeByte d :: freeBytes (d + 1) n

/-- The state after `n` free draws. -/
def State.drawn (s : State) (n : Nat) : State := { s with draws := s.draws + n }

/-- `n` bytes of DMEM from an offset on become unspecified: each is a fresh free draw (70_reset_and_hazards.md R902). -/
def State.unspecify (s : State) (a n : Nat) : State :=
  (s.memWrite a (freeBytes s.draws n)).drawn n

end Sys2Proof.Machine
end

