-- ==== Sys2Proof/Machine/Operands.lean ====
section
/-! DEFINITION. The operands a command takes from registers: the regions of the descriptor registers (20_memory.md R205,
10_state.md R117), the lengths commands fix, and the overlap of a block-sequential command's regions (20_memory.md R210). -/

namespace Sys2Proof.Machine

/-- SRC_ADDR as a DMEM offset. -/
def State.src (s : State) : Nat := s.srcAddr.toNat

/-- SRC_LEN in bytes. -/
def State.srcL (s : State) : Nat := s.srcLen.toNat

/-- DST_ADDR as a DMEM offset. -/
def State.dst (s : State) : Nat := s.dstAddr.toNat

/-- AUX_ADDR as a DMEM offset. -/
def State.aux (s : State) : Nat := s.auxAddr.toNat

/-- AUX_LEN in bytes. -/
def State.auxL (s : State) : Nat := s.auxLen.toNat

/-- SALT_ADDR as a DMEM offset. -/
def State.salt (s : State) : Nat := s.saltAddr.toNat

/-- SALT_LEN in bytes. -/
def State.saltL (s : State) : Nat := s.saltLen.toNat

/-- The KDF output length, 4 * KDF_WORDS bytes in unbounded integers (49_kdf.md R681). -/
def State.kdfLen (s : State) : Nat := 4 * s.kdfWords.toNat

/-- The KDF iteration count: ITER = 0 acts as 1 (49_kdf.md R684). -/
def State.kdfCount (s : State) : Nat := max s.iter.toNat 1

/-- `PadCount(L)` (45_pkcs7.md R530). -/
def padCount (len : Nat) : Nat := 16 - len % 16

/-- `PadBytes(L)` (45_pkcs7.md R530). -/
def padBytes (len : Nat) : List Byte := List.replicate (padCount len) (BitVec.ofNat 8 (padCount len))

/-- `DigestLen(ALG)` (48_hash_hmac.md R630). -/
def digestLen : Alg → Nat
  | .md5 => 16
  | .sha256 => 32

/-- The regions (a, n) and (b, k) share a byte. -/
def regionsMeet (a n b k : Nat) : Bool :=
  decide (0 < n) && decide (0 < k) && decide (a < b + k) && decide (b < a + n)

/-- A block-sequential command's output overlaps its input other than exactly in place, so its output bytes are unspecified
(20_memory.md R210, log entry 7). -/
def partialOverlap (src srcLen dst dstLen : Nat) : Bool :=
  decide (dst ≠ src) && regionsMeet src srcLen dst dstLen

/-- RES_LEN written with a length (10_state.md R115). -/
def State.withResLen (s : State) (n : Nat) : State := { s with resLen := BitVec.ofNat 32 n }

/-- BLOCK written (10_state.md R112). -/
def State.withBlock (s : State) (q : Quad) : State := { s with block := q }

/-- CHAIN written (10_state.md R111). -/
def State.withChain (s : State) (q : Quad) : State := { s with chain := q }

/-- HSTATE and HLEN written (10_state.md R113, R114). -/
def State.withHash (s : State) (h : Oct) (n : BitVec 64) : State := { s with hstate := h, hlen := n }

end Sys2Proof.Machine
end

