-- ==== Sys2Proof/Machine/KeySchedule.lean ====
section
/-! DEFINITION. The forward and inverse key schedules, Generate and KeyReady, and the commands KEYEXP and KEYCLR
(41_key_schedule.md R420 to R428). -/

namespace Sys2Proof.Machine

/-- The value added to w[i-Nk] to make w[i], from t = w[i-1] (R420). -/
def keyTemp (nk i : Nat) (t : Word) : Word :=
  if i % nk = 0 then subWord (rotWord t) ^^^ rconWord (i / nk)
  else if 6 < nk ∧ i % nk = 4 then subWord t
  else t

/-- `n` more schedule words from index `i` on; `w` holds the words so far, newest first (R420). -/
def expandLoop (nk : Nat) : Nat → Nat → List Word → List Word
  | 0, _, w => w
  | n + 1, i, w => expandLoop nk n (i + 1) ((w.getD (nk - 1) 0 ^^^ keyTemp nk i (w.getD 0 0)) :: w)

/-- The number of schedule words, 4 * (Nr + 1) with Nr = Nk + 6 (R420). -/
def scheduleLen (nk : Nat) : Nat := 4 * (nk + 7)

/-- `KeyExpand(k, Nk)` (R420), the schedule words in order. -/
def keyExpand (k : List Word) (nk : Nat) : List Word :=
  (expandLoop nk (scheduleLen nk - nk) nk (k.take nk).reverse).reverse

/-- Word `i` of the inverse schedule of `w` (R422). -/
def invKeyWord (w : List Word) (nr i : Nat) : Word :=
  let x := w.getD (4 * (nr - i / 4) + i % 4) 0
  if i / 4 = 0 ∨ i / 4 = nr then x else invMixWord x

/-- `InvKeyExpand(w, Nr)` (R422), in decryption order. -/
def invKeyExpand (w : List Word) (nr : Nat) : List Word :=
  (List.range (4 * (nr + 1))).map (invKeyWord w nr)

/-- A round-key RAM's contents from a schedule: 0 past its end (R424). -/
def ramOf (w : List Word) : Vector Word 60 := ⟨⟨(w ++ List.replicate 60 0).take 60⟩, by simp⟩

/-- Word `i` of a round-key RAM. -/
def ramWord (ram : Vector Word 60) (i : Nat) : Word := ram.toList.getD i 0

/-- `RK round r` or `IRK round r` (10_state.md R130, R131). -/
def ramRound (ram : Vector Word 60) (r : Nat) : Quad :=
  ⟨ramWord ram (4 * r), ramWord ram (4 * r + 1), ramWord ram (4 * r + 2), ramWord ram (4 * r + 3)⟩

/-- The legal values of KEY_LEN (R424): the full 32-bit value is compared. -/
def keyLenOk (n : Word) : Bool := n == 16#32 || n == 24#32 || n == 32#32

/-- Nk of a KEY_LEN (R424). -/
def nkOf (n : Word) : Nat := n.toNat / 4

/-- The forward schedule of the key registers (R424). -/
def forwardOf (n : Word) (key : Oct) : List Word := keyExpand key.toList (nkOf n)

/-- The inverse schedule of the key registers (R424). -/
def inverseOf (n : Word) (key : Oct) : List Word := invKeyExpand (forwardOf n key) (nkOf n + 6)

/-- A state with the key cache filled from KEY and KEY_LEN (R424). -/
def State.keyFilled (s : State) : State :=
  { s with
    rk := ramOf (forwardOf s.keyLen s.key)
    irk := ramOf (inverseOf s.keyLen s.key)
    keyValid := true
    nk := BitVec.ofNat 4 (nkOf s.keyLen)
    nr := BitVec.ofNat 4 (nkOf s.keyLen + 6) }

/-- `Generate()` (R424): nothing where it raises InvalidKeySize. -/
def State.generate (s : State) : Option State := if keyLenOk s.keyLen then some s.keyFilled else none

/-- `KeyReady()` (R427): a valid schedule is reused. -/
def State.keyReady (s : State) : Option State := if s.keyValid then some s else s.generate

/-- Go on with the key ready, else `raise InvalidKeySize` (R427). -/
def withKey (s : State) (k : State → Result) : Result :=
  match s.keyReady with
  | some t => k t
  | none => .next (s.raise .invalidKeySize)

/-- KEYEXP (R425). It generates even when the schedule is valid. -/
def execKeyexp (s : State) : Result :=
  match s.generate with
  | some t => .next t.finish
  | none => .next (s.raise .invalidKeySize)

/-- The key, its schedule and its flags cleared (R428). -/
def State.keyCleared (s : State) : State :=
  { s with
    keyLen := 0
    key := Oct.zero
    rk := ramOf []
    irk := ramOf []
    keyValid := false
    nk := 0
    nr := 0 }

/-- KEYCLR (R428). -/
def execKeyclr (s : State) : Result := .next s.keyCleared.finish

end Sys2Proof.Machine
end

