-- ==== Sys2Proof/Machine/AesRound.lean ====
section
/-! DEFINITION. The AES round transforms and their step commands, and GFMUL (42_aes_round.md). A state is a Quad, one word
for each column; byte r of word c is s[r, c] (R450). -/

namespace Sys2Proof.Machine

/-- `SubBytes(X)` (R451). -/
def subBytes (x : Quad) : Quad := x.map subWord

/-- `InvSubBytes(X)` (R452). -/
def invSubBytes (x : Quad) : Quad := x.map invSubWord

/-- The word whose row r is row r of column `c r`. -/
def gatherColumn (x : Quad) (c : Nat → Nat) : Word :=
  wordOf (byteOf (x.get (c 0)) 0) (byteOf (x.get (c 1)) 1) (byteOf (x.get (c 2)) 2) (byteOf (x.get (c 3)) 3)

/-- `ShiftRows(X)` (R453): s'[r, c] = s[r, (c + r) mod 4]. -/
def shiftRows (x : Quad) : Quad :=
  ⟨gatherColumn x (fun r => (0 + r) % 4), gatherColumn x (fun r => (1 + r) % 4),
   gatherColumn x (fun r => (2 + r) % 4), gatherColumn x (fun r => (3 + r) % 4)⟩

/-- `InvShiftRows(X)` (R454): s'[r, c] = s[r, (c - r) mod 4]. -/
def invShiftRows (x : Quad) : Quad :=
  ⟨gatherColumn x (fun r => (4 + 0 - r) % 4), gatherColumn x (fun r => (4 + 1 - r) % 4),
   gatherColumn x (fun r => (4 + 2 - r) % 4), gatherColumn x (fun r => (4 + 3 - r) % 4)⟩

/-- `MixColumns(X)` (R455). -/
def mixColumns (x : Quad) : Quad := x.map mixWord

/-- `InvMixColumns(X)` (R455). -/
def invMixColumns (x : Quad) : Quad := x.map invMixWord

/-- `AddRoundKey(X, K, r)` (R458). -/
def addRoundKey (x : Quad) (k : Vector Word 60) (r : Nat) : Quad := x.xor (ramRound k r)

/-- SUBBYTES (R451). -/
def execSubbytes (s : State) : Result := .next (s.withBlock (subBytes s.block)).finish

/-- INVSUBBYTES (R452). -/
def execInvsubbytes (s : State) : Result := .next (s.withBlock (invSubBytes s.block)).finish

/-- SHIFTROWS (R453). -/
def execShiftrows (s : State) : Result := .next (s.withBlock (shiftRows s.block)).finish

/-- INVSHIFTROWS (R454). -/
def execInvshiftrows (s : State) : Result := .next (s.withBlock (invShiftRows s.block)).finish

/-- MIXCOLUMNS (R456). -/
def execMixcolumns (s : State) : Result := .next (s.withBlock (mixColumns s.block)).finish

/-- INVMIXCOLUMNS (R457). -/
def execInvmixcolumns (s : State) : Result := .next (s.withBlock (invMixColumns s.block)).finish

/-- The round check of ADDRK and ADDIRK, after KeyReady (R458, R459). A key fill is kept where it fails (60_exceptions.md R808). -/
def withRound (s : State) (round : Nat) (k : State → Result) : Result :=
  withKey s (fun t => if t.nr.toNat < round then .next (t.raise .illegalCommand) else k t)

/-- ADDRK (R458). -/
def execAddrk (round : Nat) (s : State) : Result :=
  withRound s round (fun t => .next (t.withBlock (addRoundKey t.block t.rk round)).finish)

/-- ADDIRK (R459). -/
def execAddirk (round : Nat) (s : State) : Result :=
  withRound s round (fun t => .next (t.withBlock (addRoundKey t.block t.irk round)).finish)

/-- GFMUL (R462). -/
def execGfmul (ga gb : Byte) (s : State) : Result :=
  .next { s with result := (gmul ga gb).setWidth 32 }.finish

end Sys2Proof.Machine
end

