-- ==== Sys2Proof/Machine/AesBlock.lean ====
section
/-! DEFINITION. The AES block cipher (43_aes_block.md). -/

namespace Sys2Proof.Machine

/-- `n` full encryption rounds from round `r` on (R480). -/
def encRounds (rk : Vector Word 60) : Nat → Nat → Quad → Quad
  | 0, _, x => x
  | n + 1, r, x => encRounds rk n (r + 1) (addRoundKey (mixColumns (shiftRows (subBytes x))) rk r)

/-- `AESEncrypt(X)` under a forward schedule and Nr (R480). -/
def aesEncrypt (rk : Vector Word 60) (nr : Nat) (x : Quad) : Quad :=
  addRoundKey (shiftRows (subBytes (encRounds rk (nr - 1) 1 (addRoundKey x rk 0)))) rk nr

/-- `n` full decryption rounds from round `r` on (R481): InvMixColumns comes before AddRoundKey. -/
def decRounds (irk : Vector Word 60) : Nat → Nat → Quad → Quad
  | 0, _, x => x
  | n + 1, r, x => decRounds irk n (r + 1) (addRoundKey (invMixColumns (invSubBytes (invShiftRows x))) irk r)

/-- `AESDecrypt(X)` under an inverse schedule and Nr (R481). -/
def aesDecrypt (irk : Vector Word 60) (nr : Nat) (x : Quad) : Quad :=
  addRoundKey (invSubBytes (invShiftRows (decRounds irk (nr - 1) 1 (addRoundKey x irk 0)))) irk nr

/-- AESEncrypt under the key cache of a state. -/
def State.encryptBlock (s : State) (x : Quad) : Quad := aesEncrypt s.rk s.nr.toNat x

/-- AESDecrypt under the key cache of a state. -/
def State.decryptBlock (s : State) (x : Quad) : Quad := aesDecrypt s.irk s.nr.toNat x

/-- AES_ENC (R482). -/
def execAesEnc (s : State) : Result := withKey s (fun t => .next (t.withBlock (t.encryptBlock t.block)).finish)

/-- AES_DEC (R483). -/
def execAesDec (s : State) : Result := withKey s (fun t => .next (t.withBlock (t.decryptBlock t.block)).finish)

end Sys2Proof.Machine
end

