-- ==== Sys2Proof/Machine/Cbc.lean ====
section
/-! DEFINITION. CBC chaining (44_cbc.md). A buffer command is block-sequential: it reads input block k whole, writes output
block k, then goes on to block k + 1 (20_memory.md R210). Where its output overlaps its input other than exactly in place,
every output byte is a fresh free draw (R210, 93_implementation_defined.md U6, log entry 7); its source is read all the same, so
an unwritten source byte faults there too under DMEM_UNINIT = fault (R211, DESIGN CHOICE, log entry 7). -/

namespace Sys2Proof.Machine

/-- An output block of a block-sequential command: the computed one, or 16 free bytes. -/
def State.outBlock (s : State) (free : Bool) (q : Quad) : Quad :=
  if free then load16 (freeBytes s.draws 16) else q

/-- The draws an output block takes. -/
def State.outDrawn (s : State) (free : Bool) : State := if free then s.drawn 16 else s

/-- `CbcEncStep(P)` (R500) with its result written to DMEM at `b`: CHAIN takes the block written. -/
def State.cbcEncTo (s : State) (free : Bool) (b : Nat) (p : Quad) : State :=
  let c := s.outBlock free (s.encryptBlock (p.xor s.chain))
  ((s.withChain c).memWrite b (store16 c)).outDrawn free

/-- `CbcDecStep(C)` (R501) with its result written to DMEM at `b`: CHAIN takes the ciphertext block saved before decryption. -/
def State.cbcDecTo (s : State) (free : Bool) (b : Nat) (c : Quad) : State :=
  let p := s.outBlock free ((s.decryptBlock c).xor s.chain)
  ((s.withChain c).memWrite b (store16 p)).outDrawn free

/-- `n` blocks encrypted from DMEM at `a` to DMEM at `b` (R504). Every source block is read, where the output is free too
(DESIGN CHOICE, log entry 7). -/
def cbcEncLoop (free : Bool) : Nat → Nat → Nat → State → Result
  | 0, _, _, s => .next s
  | n + 1, a, b, s =>
    withBytes s a 16 (fun vs => cbcEncLoop free n (a + 16) (b + 16) (s.cbcEncTo free b (load16 vs)))

/-- `n` blocks decrypted from DMEM at `a` to DMEM at `b` (R505). Every source block is read, where the output is free too
(DESIGN CHOICE, log entry 7). -/
def cbcDecLoop (free : Bool) : Nat → Nat → Nat → State → Result
  | 0, _, _, s => .next s
  | n + 1, a, b, s =>
    withBytes s a 16 (fun vs => cbcDecLoop free n (a + 16) (b + 16) (s.cbcDecTo free b (load16 vs)))

/-- CBC_ENC_BLK on a state with the key ready: BLOCK and CHAIN both take the ciphertext block (R502). -/
def State.cbcEncBlk (s : State) : State :=
  let c := s.encryptBlock (s.block.xor s.chain)
  (s.withChain c).withBlock c

/-- CBC_DEC_BLK on a state with the key ready: CHAIN takes the old BLOCK (R503). -/
def State.cbcDecBlk (s : State) : State :=
  (s.withChain s.block).withBlock ((s.decryptBlock s.block).xor s.chain)

/-- CBC_ENC_BLK (R502). -/
def execCbcEncBlk (s : State) : Result := withKey s (fun t => .next t.cbcEncBlk.finish)

/-- CBC_DEC_BLK (R503). -/
def execCbcDecBlk (s : State) : Result := withKey s (fun t => .next t.cbcDecBlk.finish)

/-- The checks CBC_ENC_BUF and CBC_DEC_BUF share, in order (R504): source region, destination region, key, length. -/
def withCbcBuffer (s : State) (k : State → Result) : Result :=
  withRegion s s.src s.srcL
    (withRegion s s.dst s.srcL
      (withKey s (fun t => if t.srcL % 16 ≠ 0 then .next (t.raise .internalError) else k t)))

/-- CBC_ENC_BUF (R504). -/
def execCbcEncBuf (s : State) : Result :=
  withCbcBuffer s (fun t =>
    andThen (cbcEncLoop (partialOverlap t.src t.srcL t.dst t.srcL) (t.srcL / 16) t.src t.dst t)
      (fun u => .next (u.withResLen t.srcL).finish))

/-- CBC_DEC_BUF (R505). -/
def execCbcDecBuf (s : State) : Result :=
  withCbcBuffer s (fun t =>
    andThen (cbcDecLoop (partialOverlap t.src t.srcL t.dst t.srcL) (t.srcL / 16) t.src t.dst t)
      (fun u => .next (u.withResLen t.srcL).finish))

end Sys2Proof.Machine
end

