-- ==== Sys2Proof/Machine/Control.lean ====
section
/-! DEFINITION. The control command (40_control.md). -/

namespace Sys2Proof.Machine

/-- NOP (40_control.md R400): only the completion record. -/
def execNop (s : State) : Result := .next s.finish

end Sys2Proof.Machine
end

