-- ==== Sys2Proof/Machine/Md5.lean ====
section
/-! DEFINITION. The MD5 compression function (46_md5.md). -/

namespace Sys2Proof.Machine

/-- The additive constants T, four words a row (R571). -/
def md5Rows : List Nat :=
  [0xd76aa478e8c7b756242070dbc1bdceee, 0xf57c0faf4787c62aa8304613fd469501,
   0x698098d88b44f7afffff5bb1895cd7be, 0x6b901122fd987193a679438e49b40821,
   0xf61e2562c040b340265e5a51e9b6c7aa, 0xd62f105d02441453d8a1e681e7d3fbc8,
   0x21e1cde6c33707d6f4d50d87455a14ed, 0xa9e3e905fcefa3f8676f02d98d2a4c8a,
   0xfffa39428771f6816d9d6122fde5380c, 0xa4beea444bdecfa9f6bb4b60bebfbc70,
   0x289b7ec6eaa127fad4ef308504881d05, 0xd9d4d039e6db99e51fa27cf8c4ac5665,
   0xf4292244432aff97ab9423a7fc93a039, 0x655b59c38f0ccc92ffeff47d85845dd1,
   0x6fa87e4ffe2ce6e0a30143144e0811a1, 0xf7537e82bd3af2352ad7d2bbeb86d391]

/-- `T[i]` (R571). -/
def md5T (i : Nat) : Word := romWord md5Rows i

/-- The rotate amount `s[i]` (R572). -/
def md5Shift (i : Nat) : Nat :=
  if i < 16 then [7, 12, 17, 22].getD (i % 4) 0
  else if i < 32 then [5, 9, 14, 20].getD (i % 4) 0
  else if i < 48 then [4, 11, 16, 23].getD (i % 4) 0
  else [6, 10, 15, 21].getD (i % 4) 0

/-- The message word index `g(i)` (R573). -/
def md5Index (i : Nat) : Nat :=
  if i < 16 then i
  else if i < 32 then (5 * i + 1) % 16
  else if i < 48 then (3 * i + 5) % 16
  else (7 * i) % 16

/-- The initial chaining value (R574). -/
def md5Iv : Quad := ⟨0x67452301, 0xefcdab89, 0x98badcfe, 0x10325476⟩

/-- The round function of step `i`: F, G, H or I (R575). -/
def md5Fun (i : Nat) (x y z : Word) : Word :=
  if i < 16 then (x &&& y) ||| (~~~x &&& z)
  else if i < 32 then (x &&& z) ||| (y &&& ~~~z)
  else if i < 48 then x ^^^ y ^^^ z
  else y ^^^ (x ||| ~~~z)

/-- The sixteen message words of a block, little-endian (R576). -/
def md5Words (block : List Byte) : List Word := (List.range 16).map (fun j => leWord block (4 * j))

/-- Step `i` on the working registers (R577). -/
def md5Step (m : List Word) (i : Nat) (q : Quad) : Quad :=
  let x := q.w0 + md5Fun i q.w1 q.w2 q.w3 + md5T i + m.getD (md5Index i) 0
  ⟨q.w3, q.w1 + rotl32 x (md5Shift i), q.w1, q.w2⟩

/-- `n` steps from step `i` on. -/
def md5Steps (m : List Word) : Nat → Nat → Quad → Quad
  | 0, _, q => q
  | n + 1, i, q => md5Steps m n (i + 1) (md5Step m i q)

/-- `Md5Compress(H, B)` (R578). -/
def md5Compress (h : Quad) (block : List Byte) : Quad :=
  let q := md5Steps (md5Words block) 64 0 h
  ⟨h.w0 + q.w0, h.w1 + q.w1, h.w2 + q.w2, h.w3 + q.w3⟩

/-- The MD5 digest of a chaining value (R580). -/
def md5Digest (h : Quad) : List Byte := le32 h.w0 ++ le32 h.w1 ++ le32 h.w2 ++ le32 h.w3

end Sys2Proof.Machine
end

