-- ==== Sys2Proof/Machine/Sha256.lean ====
section
/-! DEFINITION. The SHA-256 compression function (47_sha256.md). -/

namespace Sys2Proof.Machine

/-- The round constants K, four words a row (R601). -/
def shaRows : List Nat :=
  [0x428a2f9871374491b5c0fbcfe9b5dba5, 0x3956c25b59f111f1923f82a4ab1c5ed5,
   0xd807aa9812835b01243185be550c7dc3, 0x72be5d7480deb1fe9bdc06a7c19bf174,
   0xe49b69c1efbe47860fc19dc6240ca1cc, 0x2de92c6f4a7484aa5cb0a9dc76f988da,
   0x983e5152a831c66db00327c8bf597fc7, 0xc6e00bf3d5a7914706ca635114292967,
   0x27b70a852e1b21384d2c6dfc53380d13, 0x650a7354766a0abb81c2c92e92722c85,
   0xa2bfe8a1a81a664bc24b8b70c76c51a3, 0xd192e819d6990624f40e3585106aa070,
   0x19a4c1161e376c082748774c34b0bcb5, 0x391c0cb34ed8aa4a5b9cca4f682e6ff3,
   0x748f82ee78a5636f84c878148cc70208, 0x90befffaa4506cebbef9a3f7c67178f2]

/-- `K[t]` (R601). -/
def shaK (t : Nat) : Word := romWord shaRows t

/-- The initial chaining value (R602). -/
def shaIv : Oct :=
  ⟨0x6a09e667, 0xbb67ae85, 0x3c6ef372, 0xa54ff53a, 0x510e527f, 0x9b05688c, 0x1f83d9ab, 0x5be0cd19⟩

/-- `Ch` (R603). -/
def shaCh (x y z : Word) : Word := (x &&& y) ^^^ (~~~x &&& z)

/-- `Maj` (R603). -/
def shaMaj (x y z : Word) : Word := (x &&& y) ^^^ (x &&& z) ^^^ (y &&& z)

/-- `Σ0` (R603). -/
def shaSum0 (x : Word) : Word := rotr32 x 2 ^^^ rotr32 x 13 ^^^ rotr32 x 22

/-- `Σ1` (R603). -/
def shaSum1 (x : Word) : Word := rotr32 x 6 ^^^ rotr32 x 11 ^^^ rotr32 x 25

/-- `σ0` (R603). -/
def shaSig0 (x : Word) : Word := rotr32 x 7 ^^^ rotr32 x 18 ^^^ (x >>> 3)

/-- `σ1` (R603). -/
def shaSig1 (x : Word) : Word := rotr32 x 17 ^^^ rotr32 x 19 ^^^ (x >>> 10)

/-- `n` more schedule words; `w` holds the words so far, newest first (R604). -/
def shaExtend : Nat → List Word → List Word
  | 0, w => w
  | n + 1, w =>
    shaExtend n ((shaSig1 (w.getD 1 0) + w.getD 6 0 + shaSig0 (w.getD 14 0) + w.getD 15 0) :: w)

/-- The message schedule `W[0..63]` of a block (R604). -/
def shaSchedule (block : List Byte) : List Word :=
  (shaExtend 48 ((List.range 16).map (fun t => beWord block (4 * t))).reverse).reverse

/-- Round `t` on the working registers, with K[t] and W[t] (R605). -/
def shaRound (k w : Word) (o : Oct) : Oct :=
  let t1 := o.w7 + shaSum1 o.w4 + shaCh o.w4 o.w5 o.w6 + k + w
  let t2 := shaSum0 o.w0 + shaMaj o.w0 o.w1 o.w2
  ⟨t1 + t2, o.w0, o.w1, o.w2, o.w3 + t1, o.w4, o.w5, o.w6⟩

/-- The rounds from round `t` on, one for each schedule word left. -/
def shaRounds : Nat → List Word → Oct → Oct
  | _, [], o => o
  | t, w :: ws, o => shaRounds (t + 1) ws (shaRound (shaK t) w o)

/-- `Sha256Compress(H, B)` (R606). -/
def shaCompress (h : Oct) (block : List Byte) : Oct :=
  let o := shaRounds 0 (shaSchedule block) h
  ⟨h.w0 + o.w0, h.w1 + o.w1, h.w2 + o.w2, h.w3 + o.w3, h.w4 + o.w4, h.w5 + o.w5, h.w6 + o.w6, h.w7 + o.w7⟩

/-- The SHA-256 digest of a chaining value (R607). -/
def shaDigest (h : Oct) : List Byte := h.toList.flatMap be32

end Sys2Proof.Machine
end

