-- ==== Sys2Proof/Machine/Hash.lean ====
section
/-! DEFINITION. The hash message sequencer and HMAC (48_hash_hmac.md). -/

namespace Sys2Proof.Machine

/-- The initial chaining value, as HASH_INIT loads it (R632). -/
def hashIv : Alg → Oct
  | .md5 => Oct.zero.withLowQuad md5Iv
  | .sha256 => shaIv

/-- One compression of a chaining value (R631): MD5 leaves words 4..7 alone. -/
def compress (alg : Alg) (h : Oct) (block : List Byte) : Oct :=
  match alg with
  | .md5 => h.withLowQuad (md5Compress h.lowQuad block)
  | .sha256 => shaCompress h block

/-- The digest of a chaining value (R631). -/
def digest (alg : Alg) (h : Oct) : List Byte :=
  match alg with
  | .md5 => md5Digest h.lowQuad
  | .sha256 => shaDigest h

/-- `n` blocks of 64 bytes of the byte string compressed in order. -/
def compressBlocks (alg : Alg) : Nat → Oct → List Byte → Oct
  | 0, h, _ => h
  | n + 1, h, m => compressBlocks alg n (compress alg h (m.take 64)) (m.drop 64)

/-- All whole 64-byte blocks of a byte string compressed in order. -/
def compressAll (alg : Alg) (h : Oct) (m : List Byte) : Oct := compressBlocks alg (m.length / 64) h m

/-- `LenField(ALG, total)` (R635): the message length in bits mod 2^64. -/
def lenField (alg : Alg) (total : Nat) : List Byte :=
  match alg with
  | .md5 => le64 (BitVec.ofNat 64 (8 * total))
  | .sha256 => be64 (BitVec.ofNat 64 (8 * total))

/-- The number of zero bytes that bring a length to 56 mod 64 (R634). -/
def zeroPad (len : Nat) : Nat := (120 - len % 64) % 64

/-- `HashPad(ALG, tail, total)` (R634). -/
def hashPad (alg : Alg) (tail : List Byte) (total : Nat) : List Byte :=
  let p := tail ++ [0x80#8]
  p ++ List.replicate (zeroPad p.length) 0 ++ lenField alg total

/-- The chaining value after the rest of a message, padded: `total` is the whole message's byte count (R634, R636, R638). -/
def absorbFinal (alg : Alg) (h : Oct) (m : List Byte) (total : Nat) : Oct :=
  compressAll alg (compressAll alg h m) (hashPad alg (m.drop (m.length - m.length % 64)) total)

/-- `Hash(ALG, m)` (R638), on a private chaining value. -/
def hashOf (alg : Alg) (m : List Byte) : List Byte := digest alg (absorbFinal alg (hashIv alg) m m.length)

/-- HASH_INIT (R632). -/
def execHashInit (alg : Alg) (s : State) : Result := .next (s.withHash (hashIv alg) 0).finish

/-- HLEN after `n` more message bytes (R633): it wraps mod 2^64. -/
def State.hlenPlus (s : State) (n : Nat) : BitVec 64 := s.hlen + BitVec.ofNat 64 n

/-- HASH_UPDATE (R633). -/
def execHashUpdate (alg : Alg) (s : State) : Result :=
  withRegion s s.src s.srcL
    (if s.srcL % 64 ≠ 0 then .next (s.raise .internalError)
     else withBytes s s.src s.srcL (fun m =>
       .next (s.withHash (compressAll alg s.hstate m) (s.hlenPlus s.srcL)).finish))

/-- The effect of HASH_FINAL on a message tail `m` (R636): HSTATE keeps the final chaining value, HLEN counts message bytes,
and the digest goes to DST. -/
def State.hashFinished (s : State) (alg : Alg) (m : List Byte) : State :=
  let h := absorbFinal alg s.hstate m (s.hlenPlus m.length).toNat
  ((s.withHash h (s.hlenPlus m.length)).memWrite s.dst (digest alg h)).withResLen (digestLen alg)

/-- The checks HASH_FINAL and HASH share (R636, R637), and the source read whole (20_memory.md R210). -/
def withHashOperands (alg : Alg) (s : State) (k : List Byte → Result) : Result :=
  withRegion s s.src s.srcL (withRegion s s.dst (digestLen alg) (withBytes s s.src s.srcL k))

/-- HASH_FINAL (R636). -/
def execHashFinal (alg : Alg) (s : State) : Result :=
  withHashOperands alg s (fun m => .next (s.hashFinished alg m).finish)

/-- HASH (R637): HASH_INIT's effect, then HASH_FINAL's. -/
def execHash (alg : Alg) (s : State) : Result :=
  withHashOperands alg s (fun m => .next ((s.withHash (hashIv alg) 0).hashFinished alg m).finish)

/-- `HmacKey(ALG, K)` (R650): a key over 64 bytes is hashed, then every key is zero-padded to 64 bytes. -/
def hmacKey (alg : Alg) (k : List Byte) : List Byte :=
  let k' := if 64 < k.length then hashOf alg k else k
  k' ++ List.replicate (64 - k'.length) 0

/-- `K0 ^ (v × 64)` (R651). -/
def hmacPad (k0 : List Byte) (v : Byte) : List Byte := k0.map (· ^^^ v)

/-- `Hmac(ALG, K, M)` (R651). -/
def hmacOf (alg : Alg) (k m : List Byte) : List Byte :=
  let k0 := hmacKey alg k
  hashOf alg (hmacPad k0 0x5c#8 ++ hashOf alg (hmacPad k0 0x36#8 ++ m))

/-- A result of HMAC or a KDF written to DST, with its length in RES_LEN (R652, 49_kdf.md R681). -/
def State.deliver (s : State) (r : List Byte) (n : Nat) : State := (s.memWrite s.dst r).withResLen n

/-- HMAC (R652). -/
def execHmac (alg : Alg) (s : State) : Result :=
  withRegion s s.src s.srcL
    (withRegion s s.aux s.auxL
      (withRegion s s.dst (digestLen alg)
        (withBytes s s.aux s.auxL (fun k =>
          withBytes s s.src s.srcL (fun m =>
            .next (s.deliver (hmacOf alg k m) (digestLen alg)).finish)))))

end Sys2Proof.Machine
end

