-- ==== Sys2Proof/Machine/Kdf.lean ====
section
/-! DEFINITION. The key-derivation sequencers (49_kdf.md). -/

namespace Sys2Proof.Machine

/-- The number of digest blocks in `n` bytes of output, rounded up (R680). -/
def kdfBlocks (alg : Alg) (n : Nat) : Nat := (n + digestLen alg - 1) / digestLen alg

/-- `n` more PBKDF2 iterations: U is run through HMAC and folded into T (R680). -/
def pbkdf2Iterate (alg : Alg) (p : List Byte) : Nat → List Byte → List Byte → List Byte
  | 0, _, t => t
  | n + 1, u, t =>
    let u' := hmacOf alg p u
    pbkdf2Iterate alg p n u' (xorBytes t u')

/-- Block `i` of PBKDF2 (R680). -/
def pbkdf2Block (alg : Alg) (p salt : List Byte) (c i : Nat) : List Byte :=
  let u := hmacOf alg p (salt ++ be32 (BitVec.ofNat 32 i))
  pbkdf2Iterate alg p (c - 1) u u

/-- `n` blocks of PBKDF2 from block `i` on (R680). -/
def pbkdf2Blocks (alg : Alg) (p salt : List Byte) (c : Nat) : Nat → Nat → List Byte
  | 0, _ => []
  | n + 1, i => pbkdf2Block alg p salt c i ++ pbkdf2Blocks alg p salt c n (i + 1)

/-- `Pbkdf2(ALG, P, S, c, kw)` (R680), for `len` = 4 * kw bytes of output and c at least 1. -/
def pbkdf2Of (alg : Alg) (p salt : List Byte) (c len : Nat) : List Byte :=
  (pbkdf2Blocks alg p salt c (kdfBlocks alg len) 1).take len

/-- `n` more hashes of a digest (R682). -/
def rehash (alg : Alg) : Nat → List Byte → List Byte
  | 0, d => d
  | n + 1, d => rehash alg n (hashOf alg d)

/-- `n` blocks of EVPKDF, after the previous block (R682). -/
def evpkdfBlocks (alg : Alg) (p salt : List Byte) (c : Nat) : Nat → List Byte → List Byte
  | 0, _ => []
  | n + 1, prev =>
    let d := rehash alg (c - 1) (hashOf alg (prev ++ p ++ salt))
    d ++ evpkdfBlocks alg p salt c n d

/-- `Evpkdf(ALG, P, S, c, kw)` (R682), for `len` = 4 * kw bytes of output and c at least 1. -/
def evpkdfOf (alg : Alg) (p salt : List Byte) (c len : Nat) : List Byte :=
  (evpkdfBlocks alg p salt c (kdfBlocks alg len) []).take len

/-- The checks the KDF commands share, in order: password, salt, destination (R681, R683); then the inputs read whole.
An empty output depends on no byte of them (20_memory.md R211, log entry 11). -/
def withKdfOperands (s : State) (k : List Byte → List Byte → Result) : Result :=
  withRegion s s.aux s.auxL
    (withRegion s s.salt s.saltL
      (withRegion s s.dst s.kdfLen
        (withBytesIf (decide (s.kdfLen ≠ 0)) s s.aux s.auxL (fun p =>
          withBytesIf (decide (s.kdfLen ≠ 0)) s s.salt s.saltL (fun salt => k p salt)))))

/-- PBKDF2 (R681). -/
def execPbkdf2 (alg : Alg) (s : State) : Result :=
  withKdfOperands s (fun p salt =>
    .next (s.deliver (pbkdf2Of alg p salt s.kdfCount s.kdfLen) s.kdfLen).finish)

/-- EVPKDF (R683). -/
def execEvpkdf (alg : Alg) (s : State) : Result :=
  withKdfOperands s (fun p salt =>
    .next (s.deliver (evpkdfOf alg p salt s.kdfCount s.kdfLen) s.kdfLen).finish)

end Sys2Proof.Machine
end

