-- ==== Sys2Proof/Machine/Pkcs7.lean ====
section
/-! DEFINITION. PKCS7 padding and the public encrypt and decrypt (45_pkcs7.md). -/

namespace Sys2Proof.Machine

/-- PAD (R531): the padding is written just after the message, which may be mid-word. -/
def execPad (s : State) : Result :=
  withRegion s s.src (s.srcL + padCount s.srcL)
    (.next ((s.memWrite (s.src + s.srcL) (padBytes s.srcL)).withResLen (s.srcL + padCount s.srcL)).finish)

/-- The last byte `n` of a padded string of `len` bytes is legal (R532). -/
def unpadOk (n len : Nat) : Bool := decide (n ≠ 0) && decide (n ≤ 16) && decide (n ≤ len)

/-- Go on with the padding count, else `raise InvalidPadding` (R532). -/
def withUnpad (s : State) (n len : Nat) (k : Nat → Result) : Result :=
  if unpadOk n len then k n else .next (s.raise .invalidPadding)

/-- UNPAD (R533): only the last byte is read. -/
def execUnpad (s : State) : Result :=
  withRegion s s.src s.srcL
    (if s.srcL = 0 then .next (s.raise .invalidPadding)
     else withBytes s (s.src + s.srcL - 1) 1 (fun vs =>
       withUnpad s (byteAt vs 0).toNat s.srcL (fun n => .next (s.withResLen (s.srcL - n)).finish)))

/-- `n` blocks of the byte string `m` encrypted to DMEM at `b` (R534). -/
def cbcEncString (free : Bool) : Nat → Nat → List Byte → State → State
  | 0, _, _, s => s
  | n + 1, b, m, s => cbcEncString free n (b + 16) (m.drop 16) (s.cbcEncTo free b (load16 (m.take 16)))

/-- ENCRYPT (R534). The whole source is read, where the output is free too (DESIGN CHOICE, log entry 7). -/
def execEncrypt (s : State) : Result :=
  let n := s.srcL + padCount s.srcL
  withRegion s s.src s.srcL
    (withRegion s s.dst n
      (withKey s (fun t =>
        withBytes t t.src t.srcL (fun vs =>
          .next ((cbcEncString (partialOverlap t.src t.srcL t.dst n) (n / 16) t.dst (vs ++ padBytes t.srcL) t).withResLen
            n).finish))))

/-- The last byte of the block before the final ciphertext block: CHAIN's where the message is one block (R535). -/
def withPrevLast (s : State) (k : Byte → Result) : Result :=
  if s.srcL = 16 then k (byteAt (store16 s.chain) 15)
  else withBytes s (s.src + s.srcL - 17) 1 (fun vs => k (byteAt vs 0))

/-- Go on with the last byte of the final plaintext block, last[15] of R535. It depends on the final ciphertext block and on
one byte of the block before it, so no other byte is read for it (20_memory.md R211, log entry 11). -/
def withLastPlain (s : State) (k : Byte → Result) : Result :=
  withBytes s (s.src + s.srcL - 16) 16 (fun vs =>
    withPrevLast s (fun p => k (byteAt (store16 (s.decryptBlock (load16 vs))) 15 ^^^ p)))

/-- DECRYPT (R535): the padding of the final block is checked before anything is written. -/
def execDecrypt (s : State) : Result :=
  withCbcBuffer s (fun t =>
    if t.srcL = 0 then .next (t.raise .invalidPadding)
    else withLastPlain t (fun v =>
      withUnpad t v.toNat t.srcL (fun n =>
        andThen (cbcDecLoop (partialOverlap t.src t.srcL t.dst t.srcL) (t.srcL / 16) t.src t.dst t)
          (fun u => .next (u.withResLen (t.srcL - n)).finish))))

end Sys2Proof.Machine
end

