-- ==== Sys2Proof/Machine/Dispatch.lean ====
section
/-! DEFINITION. The meaning of each command: one arm per constructor. -/

namespace Sys2Proof.Machine

def exec (i : Instr) (s : State) : Host.Outcome State Fault Refusal :=
  match i with
  | .nop => Sys2Proof.Machine.execNop s
  | .keyexp => Sys2Proof.Machine.execKeyexp s
  | .keyclr => Sys2Proof.Machine.execKeyclr s
  | .aesEnc => Sys2Proof.Machine.execAesEnc s
  | .aesDec => Sys2Proof.Machine.execAesDec s
  | .subbytes => Sys2Proof.Machine.execSubbytes s
  | .invsubbytes => Sys2Proof.Machine.execInvsubbytes s
  | .shiftrows => Sys2Proof.Machine.execShiftrows s
  | .invshiftrows => Sys2Proof.Machine.execInvshiftrows s
  | .mixcolumns => Sys2Proof.Machine.execMixcolumns s
  | .invmixcolumns => Sys2Proof.Machine.execInvmixcolumns s
  | .addrk round => Sys2Proof.Machine.execAddrk round s
  | .addirk round => Sys2Proof.Machine.execAddirk round s
  | .gfmul ga gb => Sys2Proof.Machine.execGfmul ga gb s
  | .cbcEncBlk => Sys2Proof.Machine.execCbcEncBlk s
  | .cbcDecBlk => Sys2Proof.Machine.execCbcDecBlk s
  | .cbcEncBuf => Sys2Proof.Machine.execCbcEncBuf s
  | .cbcDecBuf => Sys2Proof.Machine.execCbcDecBuf s
  | .pad => Sys2Proof.Machine.execPad s
  | .unpad => Sys2Proof.Machine.execUnpad s
  | .encrypt => Sys2Proof.Machine.execEncrypt s
  | .decrypt => Sys2Proof.Machine.execDecrypt s
  | .hashInit alg => Sys2Proof.Machine.execHashInit alg s
  | .hashUpdate alg => Sys2Proof.Machine.execHashUpdate alg s
  | .hashFinal alg => Sys2Proof.Machine.execHashFinal alg s
  | .hash alg => Sys2Proof.Machine.execHash alg s
  | .hmac alg => Sys2Proof.Machine.execHmac alg s
  | .pbkdf2 alg => Sys2Proof.Machine.execPbkdf2 alg s
  | .evpkdf alg => Sys2Proof.Machine.execEvpkdf alg s

end Sys2Proof.Machine
end

