-- ==== Sys2Proof/Machine/Engine.lean ====
section
/-! DEFINITION. Issue, the engine's step, completion, soft reset and the reset input (10_state.md R104, R140, 60_exceptions.md
R804, R805, 70_reset_and_hazards.md R901, R902). -/

namespace Sys2Proof.Machine

/-- A command word run to completion (30_encoding.md R303): an illegal word raises IllegalCommand, a legal one has its
command's meaning. The whole command is applied in this one step (10_state.md R141). -/
def runCommand (c : Word) (s : State) : Result :=
  match decode c with
  | .error _ => .next (s.raise .illegalCommand)
  | .ok i => exec i s

/-- Issue (60_exceptions.md R804) with a given number of engine steps to completion. -/
def State.issueWith (s : State) (c : Word) (left : Nat) : State :=
  { s with phase := .run c left, done := false, err := false, errCode := 0 }

/-- Issue, with the number of engine steps LATENCY gives, at least 1 (70_reset_and_hazards.md R930). -/
def State.issue (s : State) (c : Word) : State := s.issueWith c (Config.latency c s + 1)

/-- One engine step: an idle engine does nothing (60_exceptions.md R825), a running one completes at its last step (R805). -/
def engineStep (s : State) : Result :=
  match s.phase with
  | .idle => .next s
  | .run c left => if left ≤ 1 then runCommand c s else .next { s with phase := .run c (left - 1) }

/-- A region of DMEM if it passes CheckRegion, else the empty one. -/
def State.checked (s : State) (addr len : Nat) : Nat × Nat := if s.regionOk addr len then (addr, len) else (0, 0)

/-- The output region of a command (70_reset_and_hazards.md R902), as offset and length; a region that fails CheckRegion has
no writes. -/
def outputRegion (i : Instr) (s : State) : Nat × Nat :=
  match i with
  | .cbcEncBuf => s.checked s.dst s.srcL
  | .cbcDecBuf => s.checked s.dst s.srcL
  | .decrypt => s.checked s.dst s.srcL
  | .encrypt => s.checked s.dst (s.srcL + padCount s.srcL)
  | .pad => if s.regionOk s.src (s.srcL + padCount s.srcL) then (s.src + s.srcL, padCount s.srcL) else (0, 0)
  | .hashFinal alg => s.checked s.dst (digestLen alg)
  | .hash alg => s.checked s.dst (digestLen alg)
  | .hmac alg => s.checked s.dst (digestLen alg)
  | .pbkdf2 _ => s.checked s.dst s.kdfLen
  | .evpkdf _ => s.checked s.dst s.kdfLen
  | .nop => (0, 0)
  | .keyexp => (0, 0)
  | .keyclr => (0, 0)
  | .aesEnc => (0, 0)
  | .aesDec => (0, 0)
  | .subbytes => (0, 0)
  | .invsubbytes => (0, 0)
  | .shiftrows => (0, 0)
  | .invshiftrows => (0, 0)
  | .mixcolumns => (0, 0)
  | .invmixcolumns => (0, 0)
  | .addrk _ => (0, 0)
  | .addirk _ => (0, 0)
  | .gfmul _ _ => (0, 0)
  | .cbcEncBlk => (0, 0)
  | .cbcDecBlk => (0, 0)
  | .unpad => (0, 0)
  | .hashInit _ => (0, 0)
  | .hashUpdate _ => (0, 0)

/-- The output region of the running command, empty when none runs or its word is illegal (R902). -/
def State.abandonedRegion (s : State) : Nat × Nat :=
  match s.phase with
  | .idle => (0, 0)
  | .run c _ =>
    match decode c with
    | .ok i => outputRegion i s
    | .error _ => (0, 0)

/-- Every register at its reset value (10_state.md R160); DMEM, the parameters, the reset input and the model's own fields
stay. -/
def State.registersReset (s : State) : State :=
  { State.reset with
    cfg := s.cfg
    dmem := s.dmem
    rstLow := s.rstLow
    draws := s.draws
    dmemEpoch := s.dmemEpoch
    rdata := s.rdata
    inputs := s.inputs
    turns := s.turns }

/-- Soft reset (70_reset_and_hazards.md R902): registers reset, a running command abandoned, and the bytes of its output
region become free draws. -/
def State.softReset (s : State) : State := s.registersReset.unspecify s.abandonedRegion.1 s.abandonedRegion.2

/-- The reset input falls (70_reset_and_hazards.md R901): the power-on state, every DMEM byte unwritten. -/
def State.resetAsserted (s : State) : State :=
  { s.registersReset with dmem := [], dmemEpoch := s.dmemEpoch + 1, rstLow := true }

/-- The reset input rises (R901). -/
def State.resetReleased (s : State) : State := { s with rstLow := false }

end Sys2Proof.Machine
end

