-- ==== Sys2Proof/Machine/Bus.lean ====
section
/-! DEFINITION. The host's side: the address map, host reads and writes, and the host's turn (10_state.md section 2,
20_memory.md R201, R202, R212, R215, 70_reset_and_hazards.md R910, R912). -/

namespace Sys2Proof.Machine

/-- What a host address names (20_memory.md R215). -/
inductive Loc where
  | id
  | version
  | cmd
  | status
  | ctrl
  | irqStatus
  | keyLen
  | key (i : Nat)
  | chain (i : Nat)
  | block (i : Nat)
  | hstate (i : Nat)
  | hlenLo
  | hlenHi
  | resLen
  | result
  | srcAddr
  | srcLen
  | dstAddr
  | auxAddr
  | auxLen
  | saltAddr
  | saltLen
  | iter
  | kdfWords
  | rk (i : Nat)
  | irk (i : Nat)
  | dmem (j : Nat)
  | reserved
  deriving DecidableEq, Repr

/-- The register offsets 0x000 to 0x03C (10_state.md R101 to R109). -/
def csrControl : List (Nat × Loc) :=
  [(0x000, .id), (0x004, .version), (0x008, .cmd), (0x00C, .status), (0x010, .ctrl), (0x014, .irqStatus), (0x018, .keyLen),
   (0x020, .key 0), (0x024, .key 1), (0x028, .key 2), (0x02C, .key 3),
   (0x030, .key 4), (0x034, .key 5), (0x038, .key 6), (0x03C, .key 7)]

/-- The register offsets 0x040 to 0x08C (10_state.md R111 to R116). -/
def csrData : List (Nat × Loc) :=
  [(0x040, .chain 0), (0x044, .chain 1), (0x048, .chain 2), (0x04C, .chain 3),
   (0x050, .block 0), (0x054, .block 1), (0x058, .block 2), (0x05C, .block 3),
   (0x060, .hstate 0), (0x064, .hstate 1), (0x068, .hstate 2), (0x06C, .hstate 3),
   (0x070, .hstate 4), (0x074, .hstate 5), (0x078, .hstate 6), (0x07C, .hstate 7),
   (0x080, .hlenLo), (0x084, .hlenHi), (0x088, .resLen), (0x08C, .result)]

/-- The register offsets 0x090 to 0x0B0 (10_state.md R117). -/
def csrDescriptors : List (Nat × Loc) :=
  [(0x090, .srcAddr), (0x094, .srcLen), (0x098, .dstAddr), (0x09C, .auxAddr), (0x0A0, .auxLen),
   (0x0A4, .saltAddr), (0x0A8, .saltLen), (0x0AC, .iter), (0x0B0, .kdfWords)]

/-- The address map (20_memory.md R215), for an aligned address. -/
def locate (a : BitVec 17) : Loc :=
  let o := a.toNat
  if 0x10000 ≤ o then .dmem ((o - 0x10000) / 4)
  else if 0x100 ≤ o ∧ o < 0x1F0 then .rk ((o - 0x100) / 4)
  else if 0x200 ≤ o ∧ o < 0x2F0 then .irk ((o - 0x200) / 4)
  else ((csrControl ++ csrData ++ csrDescriptors).lookup o).getD .reserved

/-- The value a host read of a location outside DMEM returns while BUSY = 0 (10_state.md R101 to R132): write-only and
reserved locations read 0. -/
def readLoc (s : State) : Loc → Word
  | .id => 0x43525950#32
  | .version => 0x00010000#32
  | .cmd => 0
  | .status => statusWord s
  | .ctrl => s.ctrl.setWidth 32
  | .irqStatus => s.irqStatus.setWidth 32
  | .keyLen => s.keyLen
  | .key _ => 0
  | .chain i => s.chain.get i
  | .block i => s.block.get i
  | .hstate i => s.hstate.get i
  | .hlenLo => s.hlen.extractLsb' 0 32
  | .hlenHi => s.hlen.extractLsb' 32 32
  | .resLen => s.resLen
  | .result => s.result
  | .srcAddr => s.srcAddr
  | .srcLen => s.srcLen
  | .dstAddr => s.dstAddr
  | .auxAddr => s.auxAddr
  | .auxLen => s.auxLen
  | .saltAddr => s.saltAddr
  | .saltLen => s.saltLen
  | .iter => s.iter
  | .kdfWords => s.kdfWords
  | .rk i => ramWord s.rk i
  | .irk i => ramWord s.irk i
  | .dmem _ => 0
  | .reserved => 0

/-- The locations outside DMEM whose read while BUSY = 1 is unspecified (70_reset_and_hazards.md R912). -/
def Loc.volatile : Loc → Bool
  | .chain _ => true
  | .block _ => true
  | .hstate _ => true
  | .hlenLo => true
  | .hlenHi => true
  | .resLen => true
  | .result => true
  | .rk _ => true
  | .irk _ => true
  | .id => false
  | .version => false
  | .cmd => false
  | .status => false
  | .ctrl => false
  | .irqStatus => false
  | .keyLen => false
  | .key _ => false
  | .srcAddr => false
  | .srcLen => false
  | .dstAddr => false
  | .auxAddr => false
  | .auxLen => false
  | .saltAddr => false
  | .saltLen => false
  | .iter => false
  | .kdfWords => false
  | .dmem _ => false
  | .reserved => false

/-- A host read that returns a value. -/
def State.answer (s : State) (v : Word) : State := { s with rdata := v }

/-- A host read whose value is unspecified: a fresh free draw (20_memory.md R212, log entry 6). -/
def State.answerFree (s : State) : State := (s.answer (Config.freeWord s.draws)).drawn 1

/-- The state with every DMEM byte holding a value: an unwritten one its free draw. The hardware itself never faults on an
unwritten byte (20_memory.md R211). -/
def State.withEveryByte (s : State) : State := { s with cfg := { s.cfg with dmemUninit := .arbitrary } }

/-- The key fields of STATUS as the running command leaves them (10_state.md R105, log entry 6). They are those of the hardware's
completion, which a command that reads an unwritten DMEM byte reaches too: no key field depends on a DMEM byte. The arms past
`next` are never taken (Sys2Proof.Machine.runCommand_withEveryByte). -/
def keyFieldsAtCompletion (s : State) : Bool × BitVec 4 × BitVec 4 :=
  match s.phase with
  | .idle => keyFields s
  | .run c _ =>
    match runCommand c s.withEveryByte with
    | .next t => keyFields t
    | .fault _ => keyFields s
    | .refused _ => keyFields s

/-- A host read of STATUS while BUSY = 1 (10_state.md R105): its true value, with the key fields at issue or at completion, a
free choice. -/
def State.answerBusyStatus (s : State) : State :=
  (s.answer (statusWith s (if Config.freeBool s.draws then keyFieldsAtCompletion s else keyFields s))).drawn 1

/-- A host read of DMEM word `j` (20_memory.md R202, R212). -/
def readDmem (s : State) (j : Nat) : Result :=
  if s.cfg.dmemWords ≤ j then .next (s.answer 0)
  else if s.busy then .next s.answerFree
  else withBytes s (4 * j) 4 (fun vs => .next (s.answer (beWord vs 0)))

/-- A host read of a location (20_memory.md R202, R212, 70_reset_and_hazards.md R912). -/
def readAt (s : State) (l : Loc) : Result :=
  match l with
  | .dmem j => readDmem s j
  | .status => if s.busy then .next s.answerBusyStatus else .next (s.answer (readLoc s .status))
  | l => if s.busy && l.volatile then .next s.answerFree else .next (s.answer (readLoc s l))

/-- A host read of an aligned address (R201); unspecified while the reset input is low (70_reset_and_hazards.md R901). -/
def hostRead (s : State) (a : BitVec 17) : Result :=
  if a.toNat % 4 ≠ 0 then .refused .misalignedTransaction
  else if s.rstLow then .next s.answerFree
  else readAt s (locate a)

/-- KEY_VALID, NK and NR cleared (10_state.md R110, R133): RK and IRK keep their contents. -/
def State.keyInvalidated (s : State) : State := { s with keyValid := false, nk := 0, nr := 0 }

/-- HLEN with its low half replaced (10_state.md R114). -/
def withHlenLo (h : BitVec 64) (v : Word) : BitVec 64 := h.extractLsb' 32 32 ++ v

/-- HLEN with its high half replaced (10_state.md R114). -/
def withHlenHi (h : BitVec 64) (v : Word) : BitVec 64 := v ++ h.extractLsb' 0 32

/-- A host write to a location other than CMD, CTRL and IRQ_STATUS while BUSY = 0 (10_state.md R101 to R132, 20_memory.md R202):
read-only and reserved locations ignore it. -/
def writeLoc (s : State) (l : Loc) (v : Word) : State :=
  match l with
  | .keyLen => { s.keyInvalidated with keyLen := v }
  | .key i => { s.keyInvalidated with key := s.key.set i v }
  | .chain i => { s with chain := s.chain.set i v }
  | .block i => { s with block := s.block.set i v }
  | .hstate i => { s with hstate := s.hstate.set i v }
  | .hlenLo => { s with hlen := withHlenLo s.hlen v }
  | .hlenHi => { s with hlen := withHlenHi s.hlen v }
  | .srcAddr => { s with srcAddr := v }
  | .srcLen => { s with srcLen := v }
  | .dstAddr => { s with dstAddr := v }
  | .auxAddr => { s with auxAddr := v }
  | .auxLen => { s with auxLen := v }
  | .saltAddr => { s with saltAddr := v }
  | .saltLen => { s with saltLen := v }
  | .iter => { s with iter := v }
  | .kdfWords => { s with kdfWords := v }
  | .dmem j => if j < s.cfg.dmemWords then s.memWrite (4 * j) (be32 v) else s
  | .id => s
  | .version => s
  | .cmd => s
  | .status => s
  | .ctrl => s
  | .irqStatus => s
  | .resLen => s
  | .result => s
  | .rk _ => s
  | .irk _ => s
  | .reserved => s

/-- A host write to CMD (10_state.md R104): issue, or an overrun while BUSY = 1. -/
def writeCmd (s : State) (v : Word) : State :=
  if s.busy then { s with irqStatus := s.irqStatus ||| ovrBit } else s.issue v

/-- A host write to CTRL (10_state.md R106): a soft reset if bit 31 is 1, else the enables. -/
def writeCtrl (s : State) (v : Word) : State :=
  if v.getLsbD 31 then s.softReset else { s with ctrl := v.extractLsb' 0 3 }

/-- A host write to IRQ_STATUS (10_state.md R107): write 1 to clear. -/
def writeIrqStatus (s : State) (v : Word) : State := { s with irqStatus := s.irqStatus &&& ~~~(v.extractLsb' 0 3) }

/-- A host write to a location (70_reset_and_hazards.md R910): while BUSY = 1 only CTRL, IRQ_STATUS and CMD writes have an
effect. -/
def writeAt (s : State) (l : Loc) (v : Word) : State :=
  match l with
  | .cmd => writeCmd s v
  | .ctrl => writeCtrl s v
  | .irqStatus => writeIrqStatus s v
  | l => if s.busy then s else writeLoc s l v

/-- A host write to an aligned address (20_memory.md R201); ignored while the reset input is low (R901). -/
def hostWrite (s : State) (a : BitVec 17) (v : Word) : Result :=
  if a.toNat % 4 ≠ 0 then .refused .misalignedTransaction
  else if s.rstLow then .next s
  else .next (writeAt s (locate a) v)

/-- A POLL that read a value: it goes on when the masked value matches, else the same POLL stays pending (30_encoding.md R307). -/
def pollAgain (s : State) (pending : List Input) (mask value : Word) : State :=
  if s.rdata &&& mask = value then s else { s with inputs := pending }

/-- One input, with the ones after it already left pending in the state (20_memory.md R201, 30_encoding.md R307,
70_reset_and_hazards.md R901). -/
def hostInput (s : State) (x : Input) : Result :=
  match x with
  | .write a v => hostWrite s a v
  | .read a => hostRead s a
  | .poll a mask value => andThen (hostRead s a) (fun t => .next (pollAgain t (x :: s.inputs) mask value))
  | .subWord _ => .refused .subWordTransaction
  | .burst _ => .refused .burstTransaction
  | .resetLow => .next s.resetAsserted
  | .resetHigh => .next s.resetReleased

/-- The host's turn: its oldest pending input, or nothing. -/
def hostTurn (s : State) : Result :=
  match s.inputs with
  | [] => .next s
  | x :: rest => hostInput { s with inputs := rest } x

/-- Who moves next: the first turn listed, else a running engine before the host (log entry 4). -/
def nextAgent (s : State) : Agent :=
  match s.turns with
  | a :: _ => a
  | [] => if s.busy then .engine else .host

/-- The move of an agent. -/
def moveOf (a : Agent) (s : State) : Result :=
  match a with
  | .host => hostTurn s
  | .engine => engineStep s

end Sys2Proof.Machine
end

