-- ==== Sys2Proof/Machine/Step.lean ====
section
/-! DEFINITION. One step of the machine: the next agent of the interleaved sequence moves (60_exceptions.md R813). -/

namespace Sys2Proof.Machine

/-- One step: the turn is taken off the list, and its agent moves. -/
def step (s : State) : Host.Outcome State Fault Refusal := moveOf (nextAgent s) { s with turns := s.turns.tail }

/-- The state in which the very next step runs the command word `w` (its low `nbits` bits): the block fetches nothing
(10_state.md R150), so this stands for an accepted CMD write whose LATENCY is one engine step, with the engine's turn next and
the reset input high (log entry 4). -/
def State.withFetchWord (s : State) (nbits w : Nat) : State :=
  { s.issueWith (BitVec.ofNat 32 (w % 2 ^ nbits)) 1 with turns := .engine :: s.turns, rstLow := false }

end Sys2Proof.Machine
end

