-- ==== Sys2Proof/Machine/HostAsm.lean ====
section
/-! DEFINITION. The host assembly's pseudo-instructions as the host transactions they expand to (30_encoding.md R308). -/

namespace Sys2Proof.Machine

/-- `CMD`: one write of the command word to CMD. -/
def asmCmd (i : Instr) : Input := .write 0x008 (encode i)

/-- `SETREG`: another name of WR, one write of the value to the register at an aperture address (R307). -/
def asmSetReg (target : BitVec 17) (v : Word) : Input := .write target v

/-- `WAIT`: poll STATUS until BUSY = 0. -/
def asmWait : Input := .poll 0x00C 1 0

/-- `RUN`: CMD, then WAIT. -/
def asmRun (i : Instr) : List Input := [asmCmd i, asmWait]

/-- Writes of big-endian words of `s` to `n` word addresses from `base` on; a partial word is zero-filled (00_scope.md R11). -/
def asmWords (base : Nat) (s : List Byte) (n : Nat) : List Input :=
  (List.range n).map (fun j => .write (BitVec.ofNat 17 (base + 4 * j)) (beWord s (4 * j)))

/-- `LDKEY`: the key words, then KEY_LEN. -/
def asmLdKey (s : List Byte) : List Input := asmWords 0x020 s (s.length / 4) ++ [.write 0x018 (BitVec.ofNat 32 s.length)]

/-- `LDIV`. -/
def asmLdIv (s : List Byte) : List Input := asmWords 0x040 s 4

/-- `LDBLK`. -/
def asmLdBlk (s : List Byte) : List Input := asmWords 0x050 s 4

/-- `LDMEM` at DMEM offset `o`. -/
def asmLdMem (o : Nat) (s : List Byte) : List Input := asmWords (0x10000 + o) s ((s.length + 3) / 4)

end Sys2Proof.Machine
end

