-- ==== Sys2Proof/Safety.lean ====
section
/-! DEFINITION. What a good state is, and what a safe run is, in the terms the statements use. -/

namespace Sys2Proof.Machine

/-- R426: a valid key cache holds the schedule of the current KEY and KEY_LEN, which is legal; R133: an invalid one has NK and
NR 0. -/
def State.KeyCacheOk (s : State) : Prop :=
  if s.keyValid then
    keyLenOk s.keyLen = true ∧ s.rk = ramOf (forwardOf s.keyLen s.key) ∧ s.irk = ramOf (inverseOf s.keyLen s.key) ∧
      s.nk = BitVec.ofNat 4 (nkOf s.keyLen) ∧ s.nr = BitVec.ofNat 4 (nkOf s.keyLen + 6)
  else s.nk = 0 ∧ s.nr = 0

/-- The completion record (10_state.md R105, 60_exceptions.md R804, R805): nothing of it while a command runs, ERR only with DONE,
ERRCODE a code of R801 exactly where ERR is set, and an error only with a code the block raises. -/
def State.RecordOk (s : State) : Prop :=
  (s.busy = true → s.done = false) ∧ (s.done = false → s.err = false) ∧
    (s.err = false → s.errCode = 0) ∧ (s.err = true → ∃ e : Err, s.errCode = e.code)

/-- DMEM is in canonical form and lists only offsets that exist (20_memory.md R200). -/
def State.DmemOk (s : State) : Prop := Memory.wf s.dmem ∧ ∀ c ∈ s.dmem, c.1 < s.dmemBytes

/-- The engine between steps (10_state.md R140, R142, 70_reset_and_hazards.md R901, R930): the scratch is zero, a running command
has a step left, and no command runs while the reset input is low. -/
def State.EngineOk (s : State) : Prop :=
  s.scratch = Scratch.zero ∧ (∀ c left, s.phase = .run c left → 1 ≤ left) ∧ (s.rstLow = true → s.phase = .idle)

/-- The invariant every step keeps. -/
structure State.Inv (s : State) : Prop where
  cfg : s.cfg.legal = true
  key : s.KeyCacheOk
  record : s.RecordOk
  dmem : s.DmemOk
  engine : s.EngineOk

/-- Every byte of a region has a value, so that reading it faults in no setting of DMEM_UNINIT (20_memory.md R211). -/
def State.Readable (s : State) (a n : Nat) : Prop := ∀ o, a ≤ o → o < a + n → s.dmemByte o ≠ none

/-- A run of `n` steps meets neither a fault nor a refusal. -/
def SafeRun : Nat → State → Prop
  | 0, _ => True
  | n + 1, s => ∃ t, step s = .next t ∧ SafeRun n t

end Sys2Proof.Machine
end

