-- ==== Sys2Proof/Certificates/Slice0/Obligations.lean ====
section
/-! DEFINITION. The statements about the block, for the provers. Each says which rule of spec/ it formalises. A result statement
gives the whole next state, so it is also the command's completion and its frame: `{ s with f := v }.finish` differs from `s` in
the field `f` and in the completion record (Obligations.CompletionRecord) and in nothing else, and where `dmem` changes the
statement says what every byte reads as. -/

namespace Sys2Proof.Machine

/-- The word completes with IllegalCommand in every state, and changes nothing but the completion record (30_encoding.md R305). -/
def IllegalWord (c : Word) : Prop := ∀ s : State, runCommand c s = .next (s.raise .illegalCommand)

/-- Format N (R301): the opcode with every other bit 0 stands for `i`, and every other word of the opcode is illegal. -/
def FormN (i : Instr) (op : Byte) : Prop :=
  ∀ c : Word, c.extractLsb' 0 8 = op →
    (c.extractLsb' 8 24 = 0 → decode c = .ok i) ∧ (c.extractLsb' 8 24 ≠ 0 → IllegalWord c)

/-- Format H (R301, R302): ALG in bits 11:8, 0 for MD5 and 1 for SHA-256, and every other word of the opcode is illegal. -/
def FormH (make : Alg → Instr) (op : Byte) : Prop :=
  ∀ c : Word, c.extractLsb' 0 8 = op →
    (c.extractLsb' 8 24 = 0 → decode c = .ok (make .md5)) ∧
    (c.extractLsb' 8 24 = 1 → decode c = .ok (make .sha256)) ∧
    (c.extractLsb' 8 24 ≠ 0 → c.extractLsb' 8 24 ≠ 1 → IllegalWord c)

/-- Format R (R301, R302): ROUND in bits 15:12, and every word of the opcode with another bit set is illegal. -/
def FormR (make : Nat → Instr) (op : Byte) : Prop :=
  ∀ c : Word, c.extractLsb' 0 8 = op →
    (c.extractLsb' 8 4 = 0 ∧ c.extractLsb' 16 16 = 0 → decode c = .ok (make (c.extractLsb' 12 4).toNat)) ∧
    (¬ (c.extractLsb' 8 4 = 0 ∧ c.extractLsb' 16 16 = 0) → IllegalWord c)

/-- Format G (R301, R302): GA in bits 23:16 and GB in bits 31:24, and every word of the opcode with one of bits 15:8 set is
illegal. -/
def FormG (make : Byte → Byte → Instr) (op : Byte) : Prop :=
  ∀ c : Word, c.extractLsb' 0 8 = op →
    (c.extractLsb' 8 8 = 0 → decode c = .ok (make (c.extractLsb' 16 8) (c.extractLsb' 24 8))) ∧
    (c.extractLsb' 8 8 ≠ 0 → IllegalWord c)

/-- The legal command words, as R301, R302 and R304 list them. -/
def LegalWord (c : Word) : Prop :=
  (c.extractLsb' 0 8 ∈ ([0x00, 0x01, 0x02, 0x10, 0x11, 0x18, 0x19, 0x1A, 0x1B, 0x1C, 0x1D, 0x30, 0x31, 0x32, 0x33,
      0x38, 0x39, 0x3A, 0x3B] : List Byte) ∧ c &&& 0xFFFFFF00 = 0) ∨
  (c.extractLsb' 0 8 ∈ ([0x40, 0x41, 0x42, 0x43, 0x48, 0x50, 0x51] : List Byte) ∧ c &&& 0xFFFFF000 = 0 ∧
      (c.extractLsb' 8 4).toNat ≤ 1) ∨
  (c.extractLsb' 0 8 ∈ ([0x1E, 0x1F] : List Byte) ∧ c &&& 0xFFFF0F00 = 0) ∨
  (c.extractLsb' 0 8 = 0x20 ∧ c &&& 0x0000FF00 = 0)

/-- The bytes `vs` stand at offset `a` after, and every other DMEM byte reads as before (20_memory.md R209). -/
def StoresOnly (s t : State) (a : Nat) (vs : List Byte) : Prop :=
  ∀ o, t.dmemByte o = if a ≤ o ∧ o < a + vs.length then vs[o - a]? else s.dmemByte o

/-- Runs of `n` steps. -/
def stepsFrom : Nat → State → Result
  | 0, s => .next s
  | n + 1, s => andThen (step s) (stepsFrom n)

/-- Commands run one after another. -/
def runAll : List Instr → State → Result
  | [], s => .next s
  | i :: is, s => andThen (exec i s) (runAll is)

/-- The key-using commands (41_key_schedule.md R427). -/
def usesKey : Instr → Bool
  | .aesEnc => true
  | .aesDec => true
  | .addrk _ => true
  | .addirk _ => true
  | .cbcEncBlk => true
  | .cbcDecBlk => true
  | .cbcEncBuf => true
  | .cbcDecBuf => true
  | .encrypt => true
  | .decrypt => true
  | _ => false

/-- The regions a key-using command checks before KeyReady (60_exceptions.md R802). -/
def regionsBeforeKey (i : Instr) (s : State) : Bool :=
  match i with
  | .cbcEncBuf => s.regionOk s.src s.srcL && s.regionOk s.dst s.srcL
  | .cbcDecBuf => s.regionOk s.src s.srcL && s.regionOk s.dst s.srcL
  | .decrypt => s.regionOk s.src s.srcL && s.regionOk s.dst s.srcL
  | .encrypt => s.regionOk s.src s.srcL && s.regionOk s.dst (s.srcL + padCount s.srcL)
  | _ => true

/-- The output region of a command, empty where it has none or the region fails CheckRegion (70_reset_and_hazards.md R902). -/
def writesTo (i : Instr) (s : State) : Nat × Nat :=
  match i with
  | .cbcEncBuf => if s.regionOk s.dst s.srcL then (s.dst, s.srcL) else (0, 0)
  | .cbcDecBuf => if s.regionOk s.dst s.srcL then (s.dst, s.srcL) else (0, 0)
  | .decrypt => if s.regionOk s.dst s.srcL then (s.dst, s.srcL) else (0, 0)
  | .encrypt =>
    if s.regionOk s.dst (s.srcL + (16 - s.srcL % 16)) then (s.dst, s.srcL + (16 - s.srcL % 16)) else (0, 0)
  | .pad =>
    if s.regionOk s.src (s.srcL + (16 - s.srcL % 16)) then (s.src + s.srcL, 16 - s.srcL % 16) else (0, 0)
  | .hashFinal a => if s.regionOk s.dst (digestLen a) then (s.dst, digestLen a) else (0, 0)
  | .hash a => if s.regionOk s.dst (digestLen a) then (s.dst, digestLen a) else (0, 0)
  | .hmac a => if s.regionOk s.dst (digestLen a) then (s.dst, digestLen a) else (0, 0)
  | .pbkdf2 _ => if s.regionOk s.dst (4 * s.kdfWords.toNat) then (s.dst, 4 * s.kdfWords.toNat) else (0, 0)
  | .evpkdf _ => if s.regionOk s.dst (4 * s.kdfWords.toNat) then (s.dst, 4 * s.kdfWords.toNat) else (0, 0)
  | _ => (0, 0)

/-- The commands that write CHAIN (10_state.md R111). -/
def mayWriteChain : Instr → Bool
  | .cbcEncBlk => true
  | .cbcDecBlk => true
  | .cbcEncBuf => true
  | .cbcDecBuf => true
  | .encrypt => true
  | .decrypt => true
  | _ => false

/-- The commands that write BLOCK (10_state.md R112). -/
def mayWriteBlock : Instr → Bool
  | .aesEnc => true
  | .aesDec => true
  | .subbytes => true
  | .invsubbytes => true
  | .shiftrows => true
  | .invshiftrows => true
  | .mixcolumns => true
  | .invmixcolumns => true
  | .addrk _ => true
  | .addirk _ => true
  | .cbcEncBlk => true
  | .cbcDecBlk => true
  | _ => false

/-- The commands that write HSTATE and HLEN (10_state.md R113, R114). -/
def mayWriteHash : Instr → Bool
  | .hashInit _ => true
  | .hashUpdate _ => true
  | .hashFinal _ => true
  | .hash _ => true
  | _ => false

/-- The commands that write RES_LEN (10_state.md R115). -/
def mayWriteResLen : Instr → Bool
  | .cbcEncBuf => true
  | .cbcDecBuf => true
  | .pad => true
  | .unpad => true
  | .encrypt => true
  | .decrypt => true
  | .hashFinal _ => true
  | .hash _ => true
  | .hmac _ => true
  | .pbkdf2 _ => true
  | .evpkdf _ => true
  | _ => false

/-- The checks of a command that need no DMEM byte, in the order of 60_exceptions.md R802: each with whether it fails and its
error. -/
def errorChecks (i : Instr) (s : State) : List (Bool × Err) :=
  let region := fun a n => (!s.regionOk a n, Err.addressError)
  let key := (!s.keyValid && !(s.keyLen == 16#32 || s.keyLen == 24#32 || s.keyLen == 32#32), Err.invalidKeySize)
  let nr := if s.keyValid then s.nr.toNat else s.keyLen.toNat / 4 + 6
  match i with
  | .keyexp => [(!(s.keyLen == 16#32 || s.keyLen == 24#32 || s.keyLen == 32#32), .invalidKeySize)]
  | .aesEnc => [key]
  | .aesDec => [key]
  | .addrk r => [key, (decide (nr < r), .illegalCommand)]
  | .addirk r => [key, (decide (nr < r), .illegalCommand)]
  | .cbcEncBlk => [key]
  | .cbcDecBlk => [key]
  | .cbcEncBuf => [region s.src s.srcL, region s.dst s.srcL, key, (decide (s.srcL % 16 ≠ 0), .internalError)]
  | .cbcDecBuf => [region s.src s.srcL, region s.dst s.srcL, key, (decide (s.srcL % 16 ≠ 0), .internalError)]
  | .pad => [region s.src (s.srcL + (16 - s.srcL % 16))]
  | .unpad => [region s.src s.srcL, (decide (s.srcL = 0), .invalidPadding)]
  | .encrypt => [region s.src s.srcL, region s.dst (s.srcL + (16 - s.srcL % 16)), key]
  | .decrypt =>
    [region s.src s.srcL, region s.dst s.srcL, key, (decide (s.srcL % 16 ≠ 0), .internalError),
      (decide (s.srcL = 0), .invalidPadding)]
  | .hashUpdate _ => [region s.src s.srcL, (decide (s.srcL % 64 ≠ 0), .internalError)]
  | .hashFinal a => [region s.src s.srcL, region s.dst (digestLen a)]
  | .hash a => [region s.src s.srcL, region s.dst (digestLen a)]
  | .hmac a => [region s.src s.srcL, region s.aux s.auxL, region s.dst (digestLen a)]
  | .pbkdf2 _ => [region s.aux s.auxL, region s.salt s.saltL, region s.dst (4 * s.kdfWords.toNat)]
  | .evpkdf _ => [region s.aux s.auxL, region s.salt s.saltL, region s.dst (4 * s.kdfWords.toNat)]
  | _ => []

/-- The first error of the checks, if one fails (60_exceptions.md R812). -/
def firstError (i : Instr) (s : State) : Option Err := ((errorChecks i s).find? (·.1)).map (·.2)

/-- Every readable register below offset 0x0B4 with the value it reads as while BUSY = 0 (10_state.md R101 to R117). -/
def registerValues (s : State) : List (Nat × Word) :=
  [(0x000, 0x43525950), (0x004, 0x00010000), (0x008, 0), (0x010, s.ctrl.setWidth 32), (0x014, s.irqStatus.setWidth 32),
   (0x018, s.keyLen), (0x020, 0), (0x024, 0), (0x028, 0), (0x02C, 0), (0x030, 0), (0x034, 0), (0x038, 0), (0x03C, 0)]
  ++ [(0x040, s.chain.w0), (0x044, s.chain.w1), (0x048, s.chain.w2), (0x04C, s.chain.w3),
   (0x050, s.block.w0), (0x054, s.block.w1), (0x058, s.block.w2), (0x05C, s.block.w3),
   (0x060, s.hstate.w0), (0x064, s.hstate.w1), (0x068, s.hstate.w2), (0x06C, s.hstate.w3),
   (0x070, s.hstate.w4), (0x074, s.hstate.w5), (0x078, s.hstate.w6), (0x07C, s.hstate.w7)]
  ++ [(0x080, s.hlen.setWidth 32), (0x084, (s.hlen >>> 32).setWidth 32), (0x088, s.resLen), (0x08C, s.result),
   (0x090, s.srcAddr), (0x094, s.srcLen), (0x098, s.dstAddr), (0x09C, s.auxAddr), (0x0A0, s.auxLen),
   (0x0A4, s.saltAddr), (0x0A8, s.saltLen), (0x0AC, s.iter), (0x0B0, s.kdfWords)]

/-- The offsets below 0x10000 that name no register (10_state.md R103). -/
def reservedOffset (o : Nat) : Prop :=
  (0x0B4 ≤ o ∧ o < 0x100) ∨ (0x1F0 ≤ o ∧ o < 0x200) ∨ (0x2F0 ≤ o ∧ o < 0x10000)

/-- The read-only offsets (10_state.md R101 to R132). -/
def readOnlyOffset (o : Nat) : Prop :=
  o = 0x000 ∨ o = 0x004 ∨ o = 0x00C ∨ o = 0x088 ∨ o = 0x08C ∨ (0x100 ≤ o ∧ o < 0x1F0) ∨ (0x200 ≤ o ∧ o < 0x2F0)

/-- The 16-byte blocks of a byte string, as states (20_memory.md R204). -/
def blocksOf (m : List Byte) : List Quad :=
  (List.range (m.length / 16)).map (fun k => load16 ((m.drop (16 * k)).take 16))

/-- CBC encryption of a list of blocks under a block cipher and a chaining value (44_cbc.md R500). -/
def cbcEncBlocks (e : Quad → Quad) : Quad → List Quad → List Quad
  | _, [] => []
  | c, p :: ps => e (p.xor c) :: cbcEncBlocks e (e (p.xor c)) ps

/-- CBC decryption of a list of blocks (44_cbc.md R501). -/
def cbcDecBlocks (d : Quad → Quad) : Quad → List Quad → List Quad
  | _, [] => []
  | c, x :: xs => (d x).xor c :: cbcDecBlocks d x xs

/-- The ciphertext CBC gives for a byte string, under a state's key cache and CHAIN. -/
def cbcCipher (u : State) (m : List Byte) : List Quad := cbcEncBlocks (aesEncrypt u.rk u.nr.toNat) u.chain (blocksOf m)

/-- The plaintext CBC gives for a byte string, under a state's key cache and CHAIN. -/
def cbcPlain (u : State) (m : List Byte) : List Byte :=
  (cbcDecBlocks (aesDecrypt u.irk u.nr.toNat) u.chain (blocksOf m)).flatMap store16

/-- The output region (b, n) is the input region's start, or shares no byte with the input region (a, k) (20_memory.md R210). -/
def inPlaceOrApart (a k b n : Nat) : Prop := k = 0 ∨ n = 0 ∨ b = a ∨ b + n ≤ a ∨ a + k ≤ b

/-- The output region (b, n) shares a byte with the input region (a, k) and starts elsewhere (20_memory.md R210). -/
def overlapsApart (a k b n : Nat) : Prop := 0 < k ∧ b ≠ a ∧ a < b + n ∧ b < a + k

/-- AES encryption as a fold over the rounds (43_aes_block.md R480). -/
def encFold (rk : Vector Word 60) (nr : Nat) (x : Quad) : Quad :=
  addRoundKey (shiftRows (subBytes ((List.range' 1 (nr - 1)).foldl
    (fun y r => addRoundKey (mixColumns (shiftRows (subBytes y))) rk r) (addRoundKey x rk 0)))) rk nr

/-- AES decryption as a fold over the rounds (43_aes_block.md R481). -/
def decFold (irk : Vector Word 60) (nr : Nat) (x : Quad) : Quad :=
  addRoundKey (invSubBytes (invShiftRows ((List.range' 1 (nr - 1)).foldl
    (fun y r => addRoundKey (invMixColumns (invSubBytes (invShiftRows y))) irk r) (addRoundKey x irk 0)))) irk nr

/-- The step commands that compute AES_ENC (43_aes_block.md R484). -/
def encSteps (nr : Nat) : List Instr :=
  [.addrk 0] ++ (List.range' 1 (nr - 1)).flatMap (fun r => [.subbytes, .shiftrows, .mixcolumns, .addrk r]) ++
    [.subbytes, .shiftrows, .addrk nr]

/-- The step commands that compute AES_DEC (43_aes_block.md R484). -/
def decSteps (nr : Nat) : List Instr :=
  [.addirk 0] ++ (List.range' 1 (nr - 1)).flatMap (fun r => [.invshiftrows, .invsubbytes, .invmixcolumns, .addirk r]) ++
    [.invshiftrows, .invsubbytes, .addirk nr]

/-- The compression of every 64-byte block of a byte string, in order (48_hash_hmac.md R631). -/
def foldBlocks (alg : Alg) (h : Oct) (m : List Byte) : Oct :=
  ((List.range (m.length / 64)).map (fun k => (m.drop (64 * k)).take 64)).foldl (compress alg) h

/-- The length field: the message length in bits, eight bytes, least significant first for MD5 and most significant first for
SHA-256 (48_hash_hmac.md R635). -/
def lengthBytes (alg : Alg) (total : Nat) : List Byte :=
  let le := (List.range 8).map (fun k => BitVec.ofNat 8 (8 * total / 256 ^ k))
  match alg with
  | .md5 => le
  | .sha256 => le.reverse

/-- A message (or the rest of one) with its padding: 0x80, zeros up to 56 mod 64, the length field of the whole message
(48_hash_hmac.md R634). -/
def paddedMessage (alg : Alg) (m : List Byte) (total : Nat) : List Byte :=
  m ++ [0x80#8] ++ List.replicate ((119 - m.length % 64) % 64) 0#8 ++ lengthBytes alg total

/-- The digest bytes of a chaining value (46_md5.md R580, 47_sha256.md R607). -/
def digestBytes (alg : Alg) (h : Oct) : List Byte :=
  match alg with
  | .md5 => (List.range 16).map (fun k => byteOf (h.get (k / 4)) (3 - k % 4))
  | .sha256 => (List.range 32).map (fun k => byteOf (h.get (k / 4)) (k % 4))

/-- The four words of a line of the tables of R571 and R601, left to right. -/
def lineWords (line : BitVec 128) : List Word :=
  [line.extractLsb' 96 32, line.extractLsb' 64 32, line.extractLsb' 32 32, line.extractLsb' 0 32]

/-- The table T, line by line as 46_md5.md R571 lists it. -/
def tableT : List Word :=
  List.flatMap lineWords
    [0xd76aa478_e8c7b756_242070db_c1bdceee, 0xf57c0faf_4787c62a_a8304613_fd469501,
     0x698098d8_8b44f7af_ffff5bb1_895cd7be, 0x6b901122_fd987193_a679438e_49b40821,
     0xf61e2562_c040b340_265e5a51_e9b6c7aa, 0xd62f105d_02441453_d8a1e681_e7d3fbc8,
     0x21e1cde6_c33707d6_f4d50d87_455a14ed, 0xa9e3e905_fcefa3f8_676f02d9_8d2a4c8a,
     0xfffa3942_8771f681_6d9d6122_fde5380c, 0xa4beea44_4bdecfa9_f6bb4b60_bebfbc70,
     0x289b7ec6_eaa127fa_d4ef3085_04881d05, 0xd9d4d039_e6db99e5_1fa27cf8_c4ac5665,
     0xf4292244_432aff97_ab9423a7_fc93a039, 0x655b59c3_8f0ccc92_ffeff47d_85845dd1,
     0x6fa87e4f_fe2ce6e0_a3014314_4e0811a1, 0xf7537e82_bd3af235_2ad7d2bb_eb86d391]

/-- The table K, line by line as 47_sha256.md R601 lists it. -/
def tableK : List Word :=
  List.flatMap lineWords
    [0x428a2f98_71374491_b5c0fbcf_e9b5dba5, 0x3956c25b_59f111f1_923f82a4_ab1c5ed5,
     0xd807aa98_12835b01_243185be_550c7dc3, 0x72be5d74_80deb1fe_9bdc06a7_c19bf174,
     0xe49b69c1_efbe4786_0fc19dc6_240ca1cc, 0x2de92c6f_4a7484aa_5cb0a9dc_76f988da,
     0x983e5152_a831c66d_b00327c8_bf597fc7, 0xc6e00bf3_d5a79147_06ca6351_14292967,
     0x27b70a85_2e1b2138_4d2c6dfc_53380d13, 0x650a7354_766a0abb_81c2c92e_92722c85,
     0xa2bfe8a1_a81a664b_c24b8b70_c76c51a3, 0xd192e819_d6990624_f40e3585_106aa070,
     0x19a4c116_1e376c08_2748774c_34b0bcb5, 0x391c0cb3_4ed8aa4a_5b9cca4f_682e6ff3,
     0x748f82ee_78a5636f_84c87814_8cc70208, 0x90befffa_a4506ceb_bef9a3f7_c67178f2]

/-- The initial chaining value (46_md5.md R574, 47_sha256.md R602). -/
def initialValue : Alg → Oct
  | .md5 => ⟨0x67452301, 0xefcdab89, 0x98badcfe, 0x10325476, 0, 0, 0, 0⟩
  | .sha256 => ⟨0x6a09e667, 0xbb67ae85, 0x3c6ef372, 0xa54ff53a, 0x510e527f, 0x9b05688c, 0x1f83d9ab, 0x5be0cd19⟩

/-- The hash of a message (48_hash_hmac.md R638). -/
def messageHash (alg : Alg) (m : List Byte) : List Byte :=
  digestBytes alg (foldBlocks alg (initialValue alg) (paddedMessage alg m m.length))

/-- The HMAC of a message (48_hash_hmac.md R650, R651). -/
def messageMac (alg : Alg) (k m : List Byte) : List Byte :=
  let k' := if 64 < k.length then messageHash alg k else k
  let pad := fun v : Byte => (List.range 64).map (fun i => k'.getD i 0 ^^^ v)
  messageHash alg (pad 0x5c ++ messageHash alg (pad 0x36 ++ m))

/-- Block `i` of PBKDF2: the exclusive-or of `c` iterated MACs (49_kdf.md R680). -/
def pbkdf2Part (alg : Alg) (p salt : List Byte) (c i : Nat) : List Byte :=
  let u := fun j => (messageMac alg p)^[j + 1] (salt ++ be32 (BitVec.ofNat 32 i))
  (List.range (c - 1)).foldl (fun t j => xorBytes t (u (j + 1))) (u 0)

/-- The PBKDF2 key of `len` bytes (49_kdf.md R680): enough digests, cut off. -/
def pbkdf2Key (alg : Alg) (p salt : List Byte) (c len : Nat) : List Byte :=
  ((List.range (len / digestLen alg + 1)).flatMap (fun i => pbkdf2Part alg p salt c (i + 1))).take len

/-- Block `i` of EVPKDF, the hash iterated `c` times over the block before, the password and the salt (49_kdf.md R682). -/
def evpkdfPart (alg : Alg) (p salt : List Byte) (c : Nat) : Nat → List Byte
  | 0 => []
  | i + 1 => (messageHash alg)^[c] (evpkdfPart alg p salt c i ++ p ++ salt)

/-- The EVPKDF key of `len` bytes (49_kdf.md R682): enough digests, cut off. -/
def evpkdfKey (alg : Alg) (p salt : List Byte) (c len : Nat) : List Byte :=
  ((List.range (len / digestLen alg + 1)).flatMap (fun i => evpkdfPart alg p salt c (i + 1))).take len

/-- A message hashed in parts: HASH_UPDATE on each part, SRC moved past it, then HASH_FINAL on the rest (48_hash_hmac.md R639). -/
def hashInParts (alg : Alg) : List Nat → State → Result
  | [], s => exec (.hashFinal alg) s
  | n :: ns, s =>
    andThen (exec (.hashUpdate alg) { s with srcLen := BitVec.ofNat 32 n })
      (fun t => hashInParts alg ns
        { t with srcAddr := s.srcAddr + BitVec.ofNat 32 n, srcLen := s.srcLen - BitVec.ofNat 32 n })

/-- A state with other values in the registers HMAC and the KDFs never touch (48_hash_hmac.md R660). -/
def State.withOther (s : State) (h : Oct) (n : BitVec 64) (c b : Quad) (rk irk : Vector Word 60) (k : Oct) (kl : Word) : State :=
  { s with hstate := h, hlen := n, chain := c, block := b, rk := rk, irk := irk, key := k, keyLen := kl }

end Sys2Proof.Machine

open Sys2Proof Sys2Proof.Machine

/-! ### Encoding -/

/-- Every well-formed command is read back from its own word, with every operand at every value (30_encoding.md R301 to R304). -/
def Obligations.DecodeInvertsEncode : Prop := ∀ i : Instr, i.wf = true → decode (encode i) = .ok i

/-- A word that decodes is the word of a well-formed command, so every command has one word (30_encoding.md R300 to R306). -/
def Obligations.EncodeInvertsDecode : Prop :=
  ∀ (c : Word) (i : Instr), decode c = .ok i → i.wf = true ∧ encode i = c

/-- R303: a word of the table without a set must-be-zero bit, and with ALG at most 1, runs its command's rule; every other word
raises IllegalCommand before any check or change of state. -/
def Obligations.IllegalWordsRaiseIllegalCommand : Prop :=
  ∀ c : Word, (LegalWord c → ∃ i, decode c = .ok i ∧ ∀ s, runCommand c s = exec i s) ∧ (¬ LegalWord c → IllegalWord c)

/-- Words written out from the tables of 30_encoding.md R304 and R308. -/
def Obligations.SpecWordsDecode : Prop :=
  decode 0x00000000 = .ok .nop ∧ decode 0x00000001 = .ok .keyexp ∧ decode 0x00000010 = .ok .aesEnc ∧
  decode 0x00000018 = .ok .subbytes ∧ decode 0x0000A01E = .ok (.addrk 10) ∧ decode 0x0000101F = .ok (.addirk 1) ∧
  decode 0x83570020 = .ok (.gfmul 0x57 0x83) ∧ decode 0x00000032 = .ok .cbcEncBuf ∧ decode 0x0000003B = .ok .decrypt ∧
  decode 0x00000143 = .ok (.hash .sha256) ∧ decode 0x00000048 = .ok (.hmac .md5) ∧ decode 0x00000150 = .ok (.pbkdf2 .sha256) ∧
  decode 0x00000051 = .ok (.evpkdf .md5) ∧ decode 0xFFFFFFFF = .error .unassignedOpcode ∧
  decode 0x00000100 = .error .mustBeZero ∧ decode 0x00000243 = .error .reservedAlg

/-! ### Steps, issue and completion -/

/-- A step at which the engine moves counts down the steps left of the running command and runs the decoded command at the last
one (10_state.md R141, 60_exceptions.md R805, log entries 3 and 4). The word withFetchWord places is run by the next step. -/
def Obligations.StepRunsDecodedCommand : Prop :=
  ∀ (s : State) (c : Word) (i : Instr) (left : Nat), decode c = .ok i →
    (s.phase = .run c left → left ≤ 1 → (s.turns = [] ∨ s.turns.head? = some .engine) →
      step s = exec i { s with turns := s.turns.tail }) ∧
    (s.phase = .run c left → 2 ≤ left → (s.turns = [] ∨ s.turns.head? = some .engine) →
      step s = .next { s with turns := s.turns.tail, phase := .run c (left - 1) }) ∧
    step (s.withFetchWord 32 c.toNat) =
      exec i { s with phase := .run c 1, done := false, err := false, errCode := 0, rstLow := false }

/-- A command written to CMD runs after a finite number of engine steps, at least one (70_reset_and_hazards.md R930), under the
model's rule that a running engine moves when no turn is listed (log entry 4). -/
def Obligations.IssuedCommandIsRun : Prop :=
  ∀ (s : State) (c : Word), s.phase = .idle → s.rstLow = false → s.turns = [] →
    ∃ n, 1 ≤ n ∧ ∃ t, hostWrite s 0x008 c = .next t ∧ stepsFrom n t =
      runCommand c { s with phase := .run c 1, done := false, err := false, errCode := 0 }

/-- A step in which the host moves is the host's turn, with the turn taken off: where the first turn listed is the host's, and
where none is listed and no command runs; a turn of an idle engine changes only the list (60_exceptions.md R813, R825). The host's
turn performs its oldest pending transaction, a POLL is repeated until it matches (30_encoding.md R307), and a transaction outside
the interface is refused (20_memory.md R201). The lists of turns and of transactions, and who moves where no turn is listed, are
the model's choices of log entry 4; a POLL that stays pending is that of log entry 17. -/
def Obligations.HostTurnTakesOldestInput : Prop :=
  ∀ (s : State) (rest : List Input) (a : BitVec 17) (v mask : Word),
    (s.turns.head? = some .host → step s = hostTurn { s with turns := s.turns.tail }) ∧
    (s.turns = [] → s.phase = .idle → step s = hostTurn s) ∧
    (s.turns.head? = some .engine → s.phase = .idle → step s = .next { s with turns := s.turns.tail }) ∧
    (s.inputs = [] → hostTurn s = .next s) ∧
    (s.inputs = .write a v :: rest → hostTurn s = hostWrite { s with inputs := rest } a v) ∧
    (s.inputs = .read a :: rest → hostTurn s = hostRead { s with inputs := rest } a) ∧
    (∀ t, s.inputs = .poll a mask v :: rest → hostRead { s with inputs := rest } a = .next t →
      hostTurn s = .next (if t.rdata &&& mask = v then t else { t with inputs := .poll a mask v :: rest })) ∧
    (a.toNat % 4 ≠ 0 → hostWrite s a v = .refused .misalignedTransaction ∧ hostRead s a = .refused .misalignedTransaction) ∧
    (s.inputs = .subWord a :: rest → hostTurn s = .refused .subWordTransaction) ∧
    (s.inputs = .burst a :: rest → hostTurn s = .refused .burstTransaction)

/-- R104, R804: a CMD write while BUSY = 0 issues the word and changes nothing else; while BUSY = 1 it sets OVR_P and is
otherwise ignored; CMD reads 0. -/
def Obligations.CmdWriteIssuesOrOverruns : Prop :=
  ∀ (s : State) (c : Word), s.rstLow = false →
    (s.phase = .idle → ∃ n, hostWrite s 0x008 c =
      .next { s with phase := .run c (n + 1), done := false, err := false, errCode := 0 }) ∧
    (∀ d left, s.phase = .run d left → hostWrite s 0x008 c = .next { s with irqStatus := s.irqStatus ||| 0b100 }) ∧
    hostRead s 0x008 = .next { s with rdata := 0 }

/-- R805: whatever the command and its outcome, completion writes the record, zeroes the scratch and returns the engine to IDLE,
with code 1, 2, 4, 5 or 6 on an error; and the shape of the record the other statements use. -/
def Obligations.CompletionRecord : Prop :=
  (∀ (s t : State) (c : Word) (left : Nat), s.phase = .run c left → left ≤ 1 → engineStep s = .next t →
    t.phase = .idle ∧ t.done = true ∧ t.scratch = Scratch.zero ∧
    ((t.err = false ∧ t.errCode = 0 ∧ t.irqStatus = s.irqStatus ||| 0b001) ∨
      (t.err = true ∧ t.errCode ∈ ([1, 2, 4, 5, 6] : List (BitVec 4)) ∧ t.irqStatus = s.irqStatus ||| 0b011))) ∧
  (∀ s : State, s.finish =
    { s with phase := .idle, done := true, err := false, errCode := 0, irqStatus := s.irqStatus ||| 0b001,
             scratch := Scratch.zero }) ∧
  (∀ (s : State) (e : Err), s.raise e =
    { s with phase := .idle, done := true, err := true, errCode := e.code, irqStatus := s.irqStatus ||| 0b011,
             scratch := Scratch.zero })

/-- R806: a command that ends with an error has changed nothing but the completion record, and the key cache where KeyReady
filled it. -/
def Obligations.ErrorsArePrecise : Prop :=
  ∀ (c : Word) (s t : State), runCommand c s = .next t → t.err = true →
    ∃ e, t = s.raise e ∨
      (s.keyValid = false ∧ (s.keyLen = 16 ∨ s.keyLen = 24 ∨ s.keyLen = 32) ∧ t = s.keyFilled.raise e)

/-- Every command word completes, in every state, unless it reads a DMEM byte inside DMEM that holds no value, and then it faults
(40_control.md R401, 20_memory.md R203, R211). No command word is refused. That this covers the partial overlap of a
block-sequential command, which R210, R504, R534 and R915 tell a model to refuse, and that such a command still reads its source,
is the model's choice of log entry 7. -/
def Obligations.EveryCommandCompletes : Prop :=
  ∀ (c : Word) (s : State),
    (∃ t, runCommand c s = .next t ∧ t.phase = .idle ∧ t.done = true) ∨
    (∃ o, runCommand c s = .fault (.uninitDmem o) ∧ o < s.dmemBytes ∧ s.dmemByte o = none)

/-- The first failing check, in the order of 60_exceptions.md R802 and R812, gives the error; where none fails, a command that
completes succeeds, but for UNPAD and DECRYPT, which may still raise InvalidPadding. -/
def Obligations.CommandErrorsInCheckOrder : Prop :=
  ∀ (i : Instr) (s : State),
    (∀ e, firstError i s = some e → ∃ t, exec i s = .next t ∧ t.err = true ∧ t.errCode = e.code) ∧
    (∀ t, firstError i s = none → exec i s = .next t →
      t.err = false ∨ ((i = .unpad ∨ i = .decrypt) ∧ t.err = true ∧ t.errCode = 2))

/-- R808: a key fill made by KeyReady is kept by InternalError, IllegalCommand for ROUND and InvalidPadding; a failed generation
changes nothing; and R808's example. -/
def Obligations.KeyFillKeptOnLaterError : Prop :=
  (∀ (s : State) (i : Instr), s.keyValid = false → (s.keyLen = 16 ∨ s.keyLen = 24 ∨ s.keyLen = 32) →
    (i = .cbcEncBuf ∨ i = .cbcDecBuf ∨ i = .decrypt → regionsBeforeKey i s = true → s.srcL % 16 ≠ 0 →
      exec i s = .next (s.keyFilled.raise .internalError)) ∧
    (∀ r, i = .addrk r ∨ i = .addirk r → s.keyLen.toNat / 4 + 6 < r →
      exec i s = .next (s.keyFilled.raise .illegalCommand)) ∧
    (∀ m, i = .decrypt → regionsBeforeKey i s = true → s.srcL % 16 = 0 → s.memRead s.src s.srcL = .ok m →
      (s.srcL = 0 ∨ (cbcPlain s.keyFilled m).getLastD 0 = 0 ∨ 16 < ((cbcPlain s.keyFilled m).getLastD 0).toNat) →
      exec i s = .next (s.keyFilled.raise .invalidPadding))) ∧
  (∀ (s : State) (i : Instr), usesKey i = true → regionsBeforeKey i s = true → s.keyValid = false →
    s.keyLen ≠ 16 → s.keyLen ≠ 24 → s.keyLen ≠ 32 → exec i s = .next (s.raise .invalidKeySize)) ∧
  (∀ s : State, s.keyValid = false → s.keyLen = 16 → s.srcLen = 15 → s.regionOk s.src 15 = true → s.regionOk s.dst 15 = true →
    ∃ t, exec .cbcEncBuf s = .next t ∧ statusWord t = 0x004A040E)

/-! ### Interrupts and the host's accesses -/

/-- R143, R106, R107: irq is 1 exactly when an enabled bit is pending; IRQ_STATUS is write-1-to-clear and CTRL takes bits 2:0,
whether or not BUSY; both read back zero-extended. -/
def Obligations.InterruptControl : Prop :=
  (∀ s : State, s.irq = true ↔
    (s.irqStatus.getLsbD 0 = true ∧ s.ctrl.getLsbD 0 = true) ∨ (s.irqStatus.getLsbD 1 = true ∧ s.ctrl.getLsbD 1 = true) ∨
      (s.irqStatus.getLsbD 2 = true ∧ s.ctrl.getLsbD 2 = true)) ∧
  (∀ (s : State) (v : Word), s.rstLow = false →
    hostWrite s 0x014 v = .next { s with irqStatus := s.irqStatus &&& ~~~(v.extractLsb' 0 3) } ∧
    (v.getLsbD 31 = false → hostWrite s 0x010 v = .next { s with ctrl := v.extractLsb' 0 3 }) ∧
    hostRead s 0x014 = .next { s with rdata := s.irqStatus.setWidth 32 } ∧
    hostRead s 0x010 = .next { s with rdata := s.ctrl.setWidth 32 })

/-- R110: an accepted write to KEY_LEN or a KEY register stores the value and clears KEY_VALID, NK and NR, even where the value
is the old one; RK and IRK keep their contents, and the next KeyReady generates. -/
def Obligations.AcceptedKeyWriteInvalidatesCache : Prop :=
  ∀ (s : State) (v : Word), s.rstLow = false → s.phase = .idle →
    hostWrite s 0x018 v = .next { s with keyLen := v, keyValid := false, nk := 0, nr := 0 } ∧
    (∀ i, i < 8 → hostWrite s (BitVec.ofNat 17 (0x020 + 4 * i)) v =
      .next { s with key := s.key.set i v, keyValid := false, nk := 0, nr := 0 }) ∧
    (∀ t a, (a = 0x018 ∨ ∃ i, i < 8 ∧ a = 0x020 + 4 * i) → hostWrite s (BitVec.ofNat 17 a) v = .next t →
      t.keyReady = t.generate)

/-- R910: while BUSY = 1 only a CTRL, an IRQ_STATUS and a CMD write have an effect. -/
def Obligations.BusyWritesIgnored : Prop :=
  ∀ (s : State) (c : Word) (left : Nat) (a : BitVec 17) (v : Word), s.rstLow = false → s.phase = .run c left →
    (a.toNat % 4 = 0 → a ≠ 0x008 → a ≠ 0x010 → a ≠ 0x014 → hostWrite s a v = .next s) ∧
    hostWrite s 0x008 v = .next { s with irqStatus := s.irqStatus ||| 0b100 } ∧
    hostWrite s 0x014 v = .next { s with irqStatus := s.irqStatus &&& ~~~(v.extractLsb' 0 3) } ∧
    (v.getLsbD 31 = false → hostWrite s 0x010 v = .next { s with ctrl := v.extractLsb' 0 3 }) ∧
    (v.getLsbD 31 = true → ∃ t, hostWrite s 0x010 v = .next t ∧ t.phase = .idle ∧ t.done = false)

/-- No host read changes anything but the value it returns, in the model's `rdata`, and the model's count of free draws
(20_memory.md R214, log entry 13). -/
def Obligations.HostReadsHaveNoSideEffect : Prop :=
  ∀ (s t : State) (a : BitVec 17), hostRead s a = .next t → t = { s with rdata := t.rdata, draws := t.draws }

/-- R117, R111 to R114: the read-write registers store every value as written and read it back, each write changes its register
alone, and reset leaves 0 in each. -/
def Obligations.ReadWriteRegistersStoreEveryValue : Prop :=
  (∀ (s : State) (v : Word), s.rstLow = false → s.phase = .idle →
    hostWrite s 0x090 v = .next { s with srcAddr := v } ∧ hostWrite s 0x094 v = .next { s with srcLen := v } ∧
    hostWrite s 0x098 v = .next { s with dstAddr := v } ∧ hostWrite s 0x09C v = .next { s with auxAddr := v } ∧
    hostWrite s 0x0A0 v = .next { s with auxLen := v } ∧ hostWrite s 0x0A4 v = .next { s with saltAddr := v } ∧
    hostWrite s 0x0A8 v = .next { s with saltLen := v } ∧ hostWrite s 0x0AC v = .next { s with iter := v } ∧
    hostWrite s 0x0B0 v = .next { s with kdfWords := v } ∧
    (∀ i, i < 4 → hostWrite s (BitVec.ofNat 17 (0x040 + 4 * i)) v = .next { s with chain := s.chain.set i v }) ∧
    (∀ i, i < 4 → hostWrite s (BitVec.ofNat 17 (0x050 + 4 * i)) v = .next { s with block := s.block.set i v }) ∧
    (∀ i, i < 8 → hostWrite s (BitVec.ofNat 17 (0x060 + 4 * i)) v = .next { s with hstate := s.hstate.set i v }) ∧
    (∃ h : BitVec 64, hostWrite s 0x080 v = .next { s with hlen := h } ∧ h.toNat = s.hlen.toNat / 2 ^ 32 * 2 ^ 32 + v.toNat) ∧
    (∃ h : BitVec 64, hostWrite s 0x084 v = .next { s with hlen := h } ∧ h.toNat = v.toNat * 2 ^ 32 + s.hlen.toNat % 2 ^ 32) ∧
    (∀ p ∈ registerValues s, 0x040 ≤ p.1 → hostRead s (BitVec.ofNat 17 p.1) = .next { s with rdata := p.2 })) ∧
  State.reset.srcAddr = 0 ∧ State.reset.srcLen = 0 ∧ State.reset.dstAddr = 0 ∧ State.reset.auxAddr = 0 ∧ State.reset.auxLen = 0 ∧
  State.reset.saltAddr = 0 ∧ State.reset.saltLen = 0 ∧ State.reset.iter = 0 ∧ State.reset.kdfWords = 0

/-- R202: while BUSY = 0 the DMEM window reads and writes big-endian words, and an address past DMEM_WORDS reads 0 and ignores
writes. -/
def Obligations.DmemWindow : Prop :=
  ∀ (s : State) (j : Nat) (v : Word), s.rstLow = false → s.phase = .idle → j < 16384 →
    (j < s.cfg.dmemWords →
      (∃ t, hostWrite s (BitVec.ofNat 17 (0x10000 + 4 * j)) v = .next t ∧ t = { s with dmem := t.dmem } ∧
        StoresOnly s t (4 * j) [byteOf v 0, byteOf v 1, byteOf v 2, byteOf v 3]) ∧
      (∀ b0 b1 b2 b3, s.dmemByte (4 * j) = some b0 → s.dmemByte (4 * j + 1) = some b1 → s.dmemByte (4 * j + 2) = some b2 →
        s.dmemByte (4 * j + 3) = some b3 →
        hostRead s (BitVec.ofNat 17 (0x10000 + 4 * j)) = .next { s with rdata := wordOf b0 b1 b2 b3 })) ∧
    (s.cfg.dmemWords ≤ j →
      hostWrite s (BitVec.ofNat 17 (0x10000 + 4 * j)) v = .next s ∧
      hostRead s (BitVec.ofNat 17 (0x10000 + 4 * j)) = .next { s with rdata := 0 })

/-- While BUSY = 1, STATUS, ID, VERSION, CTRL, IRQ_STATUS, KEY_LEN and the descriptors read their values, the registers the
command may write, the windows and DMEM a free draw (70_reset_and_hazards.md R912). STATUS reads BUSY = 1 and its key fields as
at issue or as the command leaves them, where every DMEM byte has a value (10_state.md R105, 20_memory.md R211): that one choice is
made for KEY_VALID, NR and NK together is the model's choice of log entry 6, and not the spec's. -/
def Obligations.ReadsWhileBusy : Prop :=
  ∀ (s : State) (c : Word) (left : Nat), s.rstLow = false → s.phase = .run c left →
    (∀ p ∈ registerValues s, (p.1 < 0x040 ∨ 0x090 ≤ p.1) →
      hostRead s (BitVec.ofNat 17 p.1) = .next { s with rdata := p.2 }) ∧
    (∀ o, o % 4 = 0 → ((0x040 ≤ o ∧ o < 0x090) ∨ (0x100 ≤ o ∧ o < 0x1F0) ∨ (0x200 ≤ o ∧ o < 0x2F0) ∨
        (0x10000 ≤ o ∧ o < 0x20000 ∧ o < 0x10000 + s.dmemBytes)) →
      hostRead s (BitVec.ofNat 17 o) = .next { s with rdata := Config.freeWord s.draws, draws := s.draws + 1 }) ∧
    (∃ (u : State) (w : Word),
      (u = s ∨ runCommand c { s with cfg := { s.cfg with dmemUninit := .arbitrary } } = .next u) ∧
      hostRead s 0x00C = .next { s with rdata := w, draws := s.draws + 1 } ∧ w = statusWith s (keyFields u) ∧
      w.getLsbD 0 = true ∧ w.getLsbD 1 = s.done ∧ w.getLsbD 2 = s.err ∧ w.getLsbD 3 = u.keyValid ∧
      w.extractLsb' 4 4 = 0 ∧ w.extractLsb' 8 4 = s.errCode ∧ w.extractLsb' 12 4 = 0 ∧
      w.extractLsb' 16 4 = (if u.keyValid then u.nr else 0) ∧ w.extractLsb' 20 4 = (if u.keyValid then u.nk else 0) ∧
      w.extractLsb' 24 8 = 0)

/-- R101, R102, R103, R105, R132: what every offset below 0x10000 reads as while BUSY = 0, and the writes that are ignored. -/
def Obligations.RegisterReadsAndIgnoredWrites : Prop :=
  ∀ s : State, s.rstLow = false → s.phase = .idle →
    (∀ p ∈ registerValues s, hostRead s (BitVec.ofNat 17 p.1) = .next { s with rdata := p.2 }) ∧
    (∀ i, i < 60 → hostRead s (BitVec.ofNat 17 (0x100 + 4 * i)) = .next { s with rdata := s.rk.toList.getD i 0 }) ∧
    (∀ i, i < 60 → hostRead s (BitVec.ofNat 17 (0x200 + 4 * i)) = .next { s with rdata := s.irk.toList.getD i 0 }) ∧
    (∀ o, o % 4 = 0 → reservedOffset o → hostRead s (BitVec.ofNat 17 o) = .next { s with rdata := 0 }) ∧
    (∀ o v, o % 4 = 0 → reservedOffset o ∨ readOnlyOffset o → hostWrite s (BitVec.ofNat 17 o) v = .next s) ∧
    (∃ w : Word, hostRead s 0x00C = .next { s with rdata := w } ∧ w.getLsbD 0 = false ∧ w.getLsbD 1 = s.done ∧
      w.getLsbD 2 = s.err ∧ w.getLsbD 3 = s.keyValid ∧ w.extractLsb' 4 4 = 0 ∧ w.extractLsb' 8 4 = s.errCode ∧
      w.extractLsb' 12 4 = 0 ∧ w.extractLsb' 16 4 = (if s.keyValid then s.nr else 0) ∧
      w.extractLsb' 20 4 = (if s.keyValid then s.nk else 0) ∧ w.extractLsb' 24 8 = 0)

/-! ### Reset -/

/-- R160, R900: the state right after power-on. -/
def Obligations.PowerOnResetState : Prop :=
  let r := State.reset
  r.phase = .idle ∧ statusWord r = 0 ∧ r.ctrl = 0 ∧ r.irqStatus = 0 ∧ r.irq = false ∧ r.keyLen = 0 ∧
  r.key = ⟨0, 0, 0, 0, 0, 0, 0, 0⟩ ∧ r.chain = ⟨0, 0, 0, 0⟩ ∧ r.block = ⟨0, 0, 0, 0⟩ ∧ r.hstate = ⟨0, 0, 0, 0, 0, 0, 0, 0⟩ ∧
  r.hlen = 0 ∧ r.resLen = 0 ∧ r.result = 0 ∧ r.srcAddr = 0 ∧ r.srcLen = 0 ∧ r.dstAddr = 0 ∧ r.auxAddr = 0 ∧ r.auxLen = 0 ∧
  r.saltAddr = 0 ∧ r.saltLen = 0 ∧ r.iter = 0 ∧ r.kdfWords = 0 ∧ (∀ i, i < 60 → ramWord r.rk i = 0 ∧ ramWord r.irk i = 0) ∧
  r.keyValid = false ∧ r.nk = 0 ∧ r.nr = 0 ∧ r.scratch = Scratch.zero ∧ (∀ o, Memory.read r.dmem o = none) ∧
  hostRead r 0x000 = .next { r with rdata := 0x43525950 } ∧ hostRead r 0x004 = .next { r with rdata := 0x00010000 }

/-- R902: a CTRL write with bit 31 set, whether or not BUSY, resets every register and abandons a running command; DMEM keeps its
content but for the abandoned command's output region, each byte of which is a free draw. -/
def Obligations.SoftResetResetsRegisters : Prop :=
  ∀ (s : State) (v : Word), s.rstLow = false → v.getLsbD 31 = true →
    ∃ t, hostWrite s 0x010 v = .next t ∧
      t = { State.reset with
              cfg := s.cfg, dmem := t.dmem, draws := t.draws, dmemEpoch := s.dmemEpoch, rdata := s.rdata,
              inputs := s.inputs, turns := s.turns } ∧
      (s.phase = .idle → t.dmem = s.dmem) ∧
      (∀ c left e, s.phase = .run c left → decode c = .error e → t.dmem = s.dmem) ∧
      (∀ c left i, s.phase = .run c left → decode c = .ok i →
        (∀ o, ¬ ((writesTo i s).1 ≤ o ∧ o < (writesTo i s).1 + (writesTo i s).2) → t.dmemByte o = s.dmemByte o) ∧
        (∀ k, k < (writesTo i s).2 → t.dmemByte ((writesTo i s).1 + k) = some (Config.freeByte (s.draws + k))))

/-- R901 as the model reads it (log entry 9): the falling reset input puts the block in the power-on state with every DMEM byte
unwritten; while it is low, host writes are ignored and host reads return free draws; its rise changes nothing else. -/
def Obligations.ResetInputHoldsReset : Prop :=
  ∀ s : State,
    hostInput s .resetLow =
      .next { State.reset with
                cfg := s.cfg, dmem := [], dmemEpoch := s.dmemEpoch + 1, rstLow := true, draws := s.draws, rdata := s.rdata,
                inputs := s.inputs, turns := s.turns } ∧
    hostInput s .resetHigh = .next { s with rstLow := false } ∧
    (∀ a v, s.rstLow = true → a.toNat % 4 = 0 → hostWrite s a v = .next s ∧
      hostRead s a = .next { s with rdata := Config.freeWord s.draws, draws := s.draws + 1 }) ∧
    (s.dmem = [] → ∀ o, s.dmemByte o =
      match s.cfg.dmemUninit with
      | .fault => none
      | .arbitrary => some (Config.freeDmemByte s.dmemEpoch o))

/-! ### Invariants and frames over all commands -/

/-- Every step keeps the invariant: a legal configuration, a key cache that holds the schedule of the current KEY and KEY_LEN
where KEY_VALID = 1 (41_key_schedule.md section 5), a legal completion record, DMEM in canonical form and inside its size, and a zero
scratch between steps. -/
def Obligations.StepKeepsInv : Prop := ∀ s t : State, s.Inv → step s = .next t → t.Inv

/-- The invariant holds after power-on reset. -/
def Obligations.ResetMeetsInv : Prop := State.reset.Inv

/-- R118: no command writes a descriptor register, CTRL, KEY_LEN or a KEY register, but for KEYCLR and the last two; nor the
parameters, the reset input or what belongs to the host. -/
def Obligations.EngineWritesNoDescriptor : Prop :=
  ∀ (c : Word) (s t : State), runCommand c s = .next t →
    t.srcAddr = s.srcAddr ∧ t.srcLen = s.srcLen ∧ t.dstAddr = s.dstAddr ∧ t.auxAddr = s.auxAddr ∧ t.auxLen = s.auxLen ∧
    t.saltAddr = s.saltAddr ∧ t.saltLen = s.saltLen ∧ t.iter = s.iter ∧ t.kdfWords = s.kdfWords ∧ t.ctrl = s.ctrl ∧
    (decode c ≠ .ok .keyclr → t.keyLen = s.keyLen ∧ t.key = s.key) ∧
    t.cfg = s.cfg ∧ t.rstLow = s.rstLow ∧ t.dmemEpoch = s.dmemEpoch ∧ t.rdata = s.rdata ∧ t.inputs = s.inputs ∧ t.turns = s.turns

/-- Each data register is written only by the commands its rule names (10_state.md section 2), RES_LEN never by a command that
ends with an error, and a command changes no DMEM byte outside its output region. -/
def Obligations.OnlyNamedCommandsWrite : Prop :=
  ∀ (i : Instr) (s t : State), exec i s = .next t →
    (mayWriteChain i = false → t.chain = s.chain) ∧ (mayWriteBlock i = false → t.block = s.block) ∧
    (mayWriteHash i = false → t.hstate = s.hstate ∧ t.hlen = s.hlen) ∧
    (mayWriteResLen i = false ∨ t.err = true → t.resLen = s.resLen) ∧
    ((∀ a b, i ≠ .gfmul a b) → t.result = s.result) ∧
    (usesKey i = false → i ≠ .keyexp → i ≠ .keyclr →
      t.rk = s.rk ∧ t.irk = s.irk ∧ t.keyValid = s.keyValid ∧ t.nk = s.nk ∧ t.nr = s.nr) ∧
    (∀ o, ¬ ((writesTo i s).1 ≤ o ∧ o < (writesTo i s).1 + (writesTo i s).2) → t.dmemByte o = s.dmemByte o)

/-- R660: HMAC, PBKDF2 and EVPKDF neither read nor write HSTATE, HLEN, CHAIN, BLOCK, RK, IRK and the key registers, and leave the
scratch zero. -/
def Obligations.HmacAndKdfKeepToThemselves : Prop :=
  ∀ (alg : Alg) (i : Instr) (s : State), (i = .hmac alg ∨ i = .pbkdf2 alg ∨ i = .evpkdf alg) →
    (∀ h n c b rk irk k kl, exec i (s.withOther h n c b rk irk k kl) =
      andThen (exec i s) (fun t => .next (t.withOther h n c b rk irk k kl))) ∧
    (∀ t, exec i s = .next t → t.scratch = Scratch.zero ∧ t.hstate = s.hstate ∧ t.hlen = s.hlen ∧ t.chain = s.chain ∧
      t.block = s.block ∧ t.rk = s.rk ∧ t.irk = s.irk ∧ t.key = s.key ∧ t.keyLen = s.keyLen)

/-! ### Control and the key schedule -/

/-- R400: NOP writes the completion record and nothing else. -/
def Obligations.NopOnlyCompletes : Prop :=
  FormN .nop 0x00 ∧
  (∀ s : State, exec .nop s =
    .next { s with phase := .idle, done := true, err := false, errCode := 0, irqStatus := s.irqStatus ||| 0b001,
                   scratch := Scratch.zero }) ∧
  (∃ t, exec .nop (State.reset.issue 0) = .next t ∧ statusWord t = 2 ∧ t.irqStatus = 1)

/-- R424, R425: KEYEXP checks KEY_LEN and fills RK, IRK, KEY_VALID, NK and NR from KEY, valid cache or not; on InvalidKeySize it
writes none of them. -/
def Obligations.KeyexpGeneratesSchedule : Prop :=
  FormN .keyexp 0x01 ∧
  (∀ s : State, (s.keyLen ≠ 16 ∧ s.keyLen ≠ 24 ∧ s.keyLen ≠ 32) → exec .keyexp s = .next (s.raise .invalidKeySize)) ∧
  (∀ s : State, (s.keyLen = 16 ∨ s.keyLen = 24 ∨ s.keyLen = 32) →
    let n := s.keyLen.toNat / 4
    let w := keyExpand (s.key.toList.take n) n
    exec .keyexp s = .next s.keyFilled.finish ∧
    s.keyFilled =
      { s with rk := s.keyFilled.rk, irk := s.keyFilled.irk, keyValid := true, nk := BitVec.ofNat 4 n,
               nr := BitVec.ofNat 4 (n + 6) } ∧
    (∀ i, i < 60 →
      s.keyFilled.rk.toList.getD i 0 = (if i < 4 * (n + 7) then w.getD i 0 else 0) ∧
      s.keyFilled.irk.toList.getD i 0 = (if i < 4 * (n + 7) then (invKeyExpand w (n + 6)).getD i 0 else 0))) ∧
  (∀ s : State, s.keyLen = 16 → ∃ t, exec .keyexp s = .next t ∧ statusWord t = 0x004A000A)

/-- R420: the forward schedule's first Nk words are the key, and every later word follows the recurrence, with the round
constant xtime^(j-1)(0x01) in the top byte. -/
def Obligations.ForwardScheduleRecurrence : Prop :=
  (∀ (n : Word) (key : Oct), (n = 16 ∨ n = 24 ∨ n = 32) →
    forwardOf n key = keyExpand ((List.range (n.toNat / 4)).map key.get) (n.toNat / 4)) ∧
  ∀ (k : List Word) (nk : Nat), (nk = 4 ∨ nk = 6 ∨ nk = 8) → k.length = nk →
    (keyExpand k nk).length = 4 * (nk + 7) ∧
    (∀ i, i < nk → (keyExpand k nk).getD i 0 = k.getD i 0) ∧
    (∀ i, nk ≤ i → i < 4 * (nk + 7) →
      (keyExpand k nk).getD i 0 = (keyExpand k nk).getD (i - nk) 0 ^^^
        (let t := (keyExpand k nk).getD (i - 1) 0
         if i % nk = 0 then subWord (rotWord t) ^^^ ((xtime^[i / nk - 1] 1).setWidth 32 <<< 24)
         else if 6 < nk ∧ i % nk = 4 then subWord t
         else t))

/-- R422: the inverse schedule is stored in decryption order: round r is round Nr - r of the forward one, through InvMixWord for
the interior rounds. -/
def Obligations.InverseScheduleOrder : Prop :=
  ∀ (w : List Word) (nr : Nat), (nr = 10 ∨ nr = 12 ∨ nr = 14) → w.length = 4 * (nr + 1) →
    (invKeyExpand w nr).length = 4 * (nr + 1) ∧
    (∀ r c, r ≤ nr → c < 4 → (invKeyExpand w nr).getD (4 * r + c) 0 =
      if r = 0 ∨ r = nr then w.getD (4 * (nr - r) + c) 0 else invMixWord (w.getD (4 * (nr - r) + c) 0))

/-- R427: a key-using command on an invalid cache does what it does on the filled one, and raises InvalidKeySize where KEY_LEN is
illegal; on a valid cache it reads neither KEY nor KEY_LEN; no other command reads KEY_VALID, RK or IRK. -/
def Obligations.LazyKeyCheck : Prop :=
  (∀ (i : Instr) (s : State), usesKey i = true → regionsBeforeKey i s = true → s.keyValid = false →
    ((s.keyLen = 16 ∨ s.keyLen = 24 ∨ s.keyLen = 32) → exec i s = exec i s.keyFilled) ∧
    ((s.keyLen ≠ 16 ∧ s.keyLen ≠ 24 ∧ s.keyLen ≠ 32) → exec i s = .next (s.raise .invalidKeySize))) ∧
  (∀ (i : Instr) (s : State) (k : Oct) (n : Word), usesKey i = true → s.keyValid = true →
    exec i { s with key := k, keyLen := n } = andThen (exec i s) (fun t => .next { t with key := k, keyLen := n })) ∧
  (∀ (i : Instr) (s : State) (v : Bool) (rk irk : Vector Word 60), usesKey i = false → i ≠ .keyexp → i ≠ .keyclr →
    exec i { s with keyValid := v, rk := rk, irk := irk } =
      andThen (exec i s) (fun t => .next { t with keyValid := v, rk := rk, irk := irk })) ∧
  (∀ (s : State) (v : Bool) (rk irk : Vector Word 60),
    exec .keyclr { s with keyValid := v, rk := rk, irk := irk } = exec .keyclr s ∧
    ((s.keyLen = 16 ∨ s.keyLen = 24 ∨ s.keyLen = 32) →
      exec .keyexp { s with keyValid := v, rk := rk, irk := irk } = exec .keyexp s))

/-- R428: KEYCLR clears the key, both schedules and the key flags, touches nothing else, and leaves KeyReady failing. -/
def Obligations.KeyclrClearsKey : Prop :=
  FormN .keyclr 0x02 ∧
  (∀ s : State, ∃ t, exec .keyclr s = .next t ∧
    t = ({ s with keyLen := 0, key := ⟨0, 0, 0, 0, 0, 0, 0, 0⟩, rk := Vector.replicate 60 0, irk := Vector.replicate 60 0,
                  keyValid := false, nk := 0, nr := 0 } : State).finish ∧
    statusWord t = 2 ∧ (∀ i, usesKey i = true → regionsBeforeKey i t = true → exec i t = .next (t.raise .invalidKeySize)))

/-! ### GF(2^8) and the round transforms -/

/-- R410: the product as the sum of the doublings of `a` that the bits of `b` select, its laws, and the doubling of R411. -/
def Obligations.GfProductLaws : Prop :=
  (∀ a b c : Byte, gmul a b = gmul b a ∧ gmul (gmul a b) c = gmul a (gmul b c) ∧ gmul a (b ^^^ c) = gmul a b ^^^ gmul a c ∧
    gmul a 0x01 = a ∧ gmul a 0x00 = 0x00 ∧ gmul a 0x02 = xtime a ∧
    gmul a b = (List.range 8).foldl (fun p i => if b.getLsbD i then p ^^^ xtime^[i] a else p) 0) ∧
  (∀ a : Byte, xtime a =
    ((a.setWidth 9 <<< 1) ^^^ (if (a.setWidth 9 <<< 1).getLsbD 8 then 0x11b#9 else 0)).setWidth 8) ∧
  gmul 0x57 0x83 = 0xc1 ∧ gmul 0x57 0x13 = 0xfe ∧ gmul 0xff 0xff = 0x13 ∧ gmul 0x02 0x80 = 0x1b

/-- R412, R413, R414: the S-box is the affine transform of the unique inverse, with inv(0) = 0, and Si inverts it. -/
def Obligations.SboxFromInverse : Prop :=
  ∀ x : Byte, ∃ y : Byte,
    (x ≠ 0 → gmul x y = 1 ∧ ∀ z, gmul x z = 1 → z = y) ∧ (x = 0 → y = 0) ∧
    sbox x = y ^^^ y.rotateLeft 1 ^^^ y.rotateLeft 2 ^^^ y.rotateLeft 3 ^^^ y.rotateLeft 4 ^^^ 0x63 ∧
    invSbox (sbox x) = x ∧ sbox (invSbox x) = x

/-- R451, R452: SUBBYTES and INVSUBBYTES substitute every byte of BLOCK, need no key, and change only BLOCK; the corner cases of
R451 and R452 and their example. -/
def Obligations.SubBytesCommands : Prop :=
  FormN .subbytes 0x18 ∧ FormN .invsubbytes 0x19 ∧
  (∀ s : State, ∃ q p : Quad,
    exec .subbytes s = .next ({ s with block := q } : State).finish ∧
    exec .invsubbytes s = .next ({ s with block := p } : State).finish ∧
    ∀ c r, c < 4 → r < 4 → byteOf (q.get c) r = sbox (byteOf (s.block.get c) r) ∧
      byteOf (p.get c) r = invSbox (byteOf (s.block.get c) r)) ∧
  (∀ x, sbox x ≠ x) ∧ subBytes ⟨0, 0, 0, 0⟩ = ⟨0x63636363, 0x63636363, 0x63636363, 0x63636363⟩ ∧
  invSubBytes ⟨0x63636363, 0x63636363, 0x63636363, 0x63636363⟩ = ⟨0, 0, 0, 0⟩ ∧
  subBytes ⟨0x193de3be, 0xa0f4e22b, 0x9ac68d2a, 0xe9f84808⟩ = ⟨0xd42711ae, 0xe0bf98f1, 0xb8b45de5, 0x1e415230⟩ ∧
  invSubBytes ⟨0xd42711ae, 0xe0bf98f1, 0xb8b45de5, 0x1e415230⟩ = ⟨0x193de3be, 0xa0f4e22b, 0x9ac68d2a, 0xe9f84808⟩

/-- R453, R454: SHIFTROWS and INVSHIFTROWS turn row r of BLOCK by r columns, left and right, and change only BLOCK; equal
columns are a fixed point, four SHIFTROWS are the identity, and the example. -/
def Obligations.ShiftRowsCommands : Prop :=
  FormN .shiftrows 0x1A ∧ FormN .invshiftrows 0x1B ∧
  (∀ s : State, ∃ q p : Quad,
    exec .shiftrows s = .next ({ s with block := q } : State).finish ∧
    exec .invshiftrows s = .next ({ s with block := p } : State).finish ∧
    ∀ c r, c < 4 → r < 4 → byteOf (q.get c) r = byteOf (s.block.get ((c + r) % 4)) r ∧
      byteOf (p.get ((c + r) % 4)) r = byteOf (s.block.get c) r) ∧
  (∀ w : Word, shiftRows ⟨w, w, w, w⟩ = ⟨w, w, w, w⟩ ∧ invShiftRows ⟨w, w, w, w⟩ = ⟨w, w, w, w⟩) ∧
  (∀ x : Quad, shiftRows (shiftRows (shiftRows (shiftRows x))) = x) ∧
  shiftRows ⟨0xd42711ae, 0xe0bf98f1, 0xb8b45de5, 0x1e415230⟩ = ⟨0xd4bf5d30, 0xe0b452ae, 0xb84111f1, 0x1e2798e5⟩ ∧
  invShiftRows ⟨0xd4bf5d30, 0xe0b452ae, 0xb84111f1, 0x1e2798e5⟩ = ⟨0xd42711ae, 0xe0bf98f1, 0xb8b45de5, 0x1e415230⟩

/-- R417, R455, R456, R457: MIXCOLUMNS and INVMIXCOLUMNS multiply every column of BLOCK by their matrix, InvMixWord undoes
MixWord, a column of four equal bytes is fixed, and only BLOCK changes. -/
def Obligations.MixColumnsCommands : Prop :=
  FormN .mixcolumns 0x1C ∧ FormN .invmixcolumns 0x1D ∧
  (∀ s : State, ∃ q p : Quad,
    exec .mixcolumns s = .next ({ s with block := q } : State).finish ∧
    exec .invmixcolumns s = .next ({ s with block := p } : State).finish ∧
    ∀ c, c < 4 →
      let a := fun r => byteOf (s.block.get c) r
      q.get c = wordOf
        (gmul 0x02 (a 0) ^^^ gmul 0x03 (a 1) ^^^ gmul 0x01 (a 2) ^^^ gmul 0x01 (a 3))
        (gmul 0x01 (a 0) ^^^ gmul 0x02 (a 1) ^^^ gmul 0x03 (a 2) ^^^ gmul 0x01 (a 3))
        (gmul 0x01 (a 0) ^^^ gmul 0x01 (a 1) ^^^ gmul 0x02 (a 2) ^^^ gmul 0x03 (a 3))
        (gmul 0x03 (a 0) ^^^ gmul 0x01 (a 1) ^^^ gmul 0x01 (a 2) ^^^ gmul 0x02 (a 3)) ∧
      p.get c = wordOf
        (gmul 0x0e (a 0) ^^^ gmul 0x0b (a 1) ^^^ gmul 0x0d (a 2) ^^^ gmul 0x09 (a 3))
        (gmul 0x09 (a 0) ^^^ gmul 0x0e (a 1) ^^^ gmul 0x0b (a 2) ^^^ gmul 0x0d (a 3))
        (gmul 0x0d (a 0) ^^^ gmul 0x09 (a 1) ^^^ gmul 0x0e (a 2) ^^^ gmul 0x0b (a 3))
        (gmul 0x0b (a 0) ^^^ gmul 0x0d (a 1) ^^^ gmul 0x09 (a 2) ^^^ gmul 0x0e (a 3))) ∧
  (∀ w : Word, invMixWord (mixWord w) = w) ∧
  (∀ b : Byte, mixWord (wordOf b b b b) = wordOf b b b b ∧ invMixWord (wordOf b b b b) = wordOf b b b b) ∧
  mixWord 0xdb135345 = 0x8e4da1bc ∧ mixWord 0xf20a225c = 0x9fdc589d ∧ mixWord 0xd4d4d4d5 = 0xd5d5d7d6 ∧
  mixColumns ⟨0xd4bf5d30, 0xe0b452ae, 0xb84111f1, 0x1e2798e5⟩ = ⟨0x046681e5, 0xe0cb199a, 0x48f8d37a, 0x2806264c⟩ ∧
  invMixColumns ⟨0x046681e5, 0xe0cb199a, 0x48f8d37a, 0x2806264c⟩ = ⟨0xd4bf5d30, 0xe0b452ae, 0xb84111f1, 0x1e2798e5⟩

/-- R458, R459: ADDRK and ADDIRK make the key ready, check ROUND against Nr, and add the words of RK or IRK round ROUND to
BLOCK; ADDRK twice restores BLOCK; IRK round r is RK round Nr - r, through InvMixColumns inside. -/
def Obligations.RoundKeyCommands : Prop :=
  FormR .addrk 0x1E ∧ FormR .addirk 0x1F ∧
  (∀ (s : State) (r : Nat), s.keyReady = none →
    exec (.addrk r) s = .next (s.raise .invalidKeySize) ∧ exec (.addirk r) s = .next (s.raise .invalidKeySize)) ∧
  (∀ (s u : State) (r : Nat), s.keyReady = some u →
    (u.nr.toNat < r → exec (.addrk r) s = .next (u.raise .illegalCommand) ∧
      exec (.addirk r) s = .next (u.raise .illegalCommand)) ∧
    (r ≤ u.nr.toNat →
      (∃ q p : Quad, exec (.addrk r) s = .next ({ u with block := q } : State).finish ∧
        exec (.addirk r) s = .next ({ u with block := p } : State).finish ∧
        ∀ c, c < 4 → q.get c = s.block.get c ^^^ u.rk.toList.getD (4 * r + c) 0 ∧
          p.get c = s.block.get c ^^^ u.irk.toList.getD (4 * r + c) 0) ∧
      (∃ t, runAll [.addrk r, .addrk r] s = .next t ∧ t.block = s.block))) ∧
  (∀ s u : State, s.KeyCacheOk → s.keyReady = some u → ∀ r, r ≤ u.nr.toNat →
    ramRound u.irk r =
      if r = 0 ∨ r = u.nr.toNat then ramRound u.rk (u.nr.toNat - r) else invMixColumns (ramRound u.rk (u.nr.toNat - r)))

/-- R462: GFMUL writes the zero-extended product of GA and GB to RESULT and changes nothing else. -/
def Obligations.GfmulCommand : Prop :=
  FormG .gfmul 0x20 ∧
  (∀ (a b : Byte) (s : State), exec (.gfmul a b) s = .next ({ s with result := 0#24 ++ gmul a b } : State).finish) ∧
  (∀ a b : Byte, gmul a b = gmul b a ∧ gmul a 0 = 0 ∧ gmul 1 b = b) ∧
  (∀ s : State, runCommand 0x83570020 s = .next ({ s with result := 0x000000c1 } : State).finish)

/-! ### AES and CBC -/

/-- R480 to R483: AES_ENC and AES_DEC make the key ready and replace BLOCK by the cipher of it, with Nr - 1 full rounds and the
final one; nothing but BLOCK and the key cache changes. -/
def Obligations.AesBlockCommands : Prop :=
  FormN .aesEnc 0x10 ∧ FormN .aesDec 0x11 ∧
  (∀ s : State, s.keyReady = none →
    exec .aesEnc s = .next (s.raise .invalidKeySize) ∧ exec .aesDec s = .next (s.raise .invalidKeySize)) ∧
  (∀ s u : State, s.keyReady = some u →
    exec .aesEnc s = .next ({ u with block := encFold u.rk u.nr.toNat s.block } : State).finish ∧
    exec .aesDec s = .next ({ u with block := decFold u.irk u.nr.toNat s.block } : State).finish)

/-- For every legal key, decryption inverts encryption and encryption inverts decryption, and AES_ENC then AES_DEC, or the other
way round, restores BLOCK (43_aes_block.md section 2). -/
def Obligations.DecryptInvertsEncrypt : Prop :=
  (∀ (n : Word) (key : Oct) (x : Quad), (n = 16 ∨ n = 24 ∨ n = 32) →
    let rk := ramOf (forwardOf n key)
    let irk := ramOf (inverseOf n key)
    let nr := n.toNat / 4 + 6
    aesDecrypt irk nr (aesEncrypt rk nr x) = x ∧ aesEncrypt rk nr (aesDecrypt irk nr x) = x) ∧
  (∀ s u : State, s.KeyCacheOk → s.keyReady = some u →
    runAll [.aesEnc, .aesDec] s = .next u.finish ∧ runAll [.aesDec, .aesEnc] s = .next u.finish)

/-- The step commands of 43_aes_block.md section 2 do together what AES_ENC and AES_DEC do. -/
def Obligations.StepCommandsComputeAes : Prop :=
  ∀ s u : State, s.keyReady = some u →
    runAll (encSteps u.nr.toNat) s = exec .aesEnc s ∧ runAll (decSteps u.nr.toNat) s = exec .aesDec s

/-- R500 to R503: CBC_ENC_BLK and CBC_DEC_BLK perform one chaining step on BLOCK and CHAIN, and are AES_ENC and AES_DEC of BLOCK
where CHAIN = 0. -/
def Obligations.CbcBlockCommands : Prop :=
  FormN .cbcEncBlk 0x30 ∧ FormN .cbcDecBlk 0x31 ∧
  (∀ s : State, s.keyReady = none →
    exec .cbcEncBlk s = .next (s.raise .invalidKeySize) ∧ exec .cbcDecBlk s = .next (s.raise .invalidKeySize)) ∧
  (∀ s u : State, s.keyReady = some u →
    let x : Quad := ⟨s.block.w0 ^^^ s.chain.w0, s.block.w1 ^^^ s.chain.w1, s.block.w2 ^^^ s.chain.w2, s.block.w3 ^^^ s.chain.w3⟩
    let y := decFold u.irk u.nr.toNat s.block
    exec .cbcEncBlk s =
      .next ({ u with block := encFold u.rk u.nr.toNat x, chain := encFold u.rk u.nr.toNat x } : State).finish ∧
    exec .cbcDecBlk s =
      .next ({ u with
                 block := ⟨y.w0 ^^^ s.chain.w0, y.w1 ^^^ s.chain.w1, y.w2 ^^^ s.chain.w2, y.w3 ^^^ s.chain.w3⟩
                 chain := s.block } : State).finish) ∧
  (∀ s u : State, s.keyReady = some u → s.chain = ⟨0, 0, 0, 0⟩ →
    (∃ t v, exec .cbcEncBlk s = .next t ∧ exec .aesEnc s = .next v ∧ t.block = v.block) ∧
    (∃ t v, exec .cbcDecBlk s = .next t ∧ exec .aesDec s = .next v ∧ t.block = v.block))

/-- CBC_ENC_BUF writes the CBC encryption of the source to the destination, leaves the last ciphertext block in CHAIN and the
length in RES_LEN, and changes nothing else, where the output does not partially overlap the input (44_cbc.md R504). -/
def Obligations.CbcEncBufCommand : Prop :=
  FormN .cbcEncBuf 0x32 ∧
  ∀ (s u : State) (m : List Byte), s.regionOk s.src s.srcL = true → s.regionOk s.dst s.srcL = true → s.keyReady = some u →
    s.srcL % 16 = 0 → inPlaceOrApart s.src s.srcL s.dst s.srcL → s.memRead s.src s.srcL = .ok m →
    ∃ t, exec .cbcEncBuf s = .next t ∧ StoresOnly s t s.dst ((cbcCipher u m).flatMap store16) ∧
      t = ({ u with dmem := t.dmem, chain := (cbcCipher u m).getLastD s.chain, resLen := s.srcLen } : State).finish

/-- CBC_DEC_BUF writes the CBC decryption of the source to the destination, leaves the last ciphertext block in CHAIN and the
length in RES_LEN, and changes nothing else, where the output does not partially overlap the input (44_cbc.md R505). -/
def Obligations.CbcDecBufCommand : Prop :=
  FormN .cbcDecBuf 0x33 ∧
  ∀ (s u : State) (m : List Byte), s.regionOk s.src s.srcL = true → s.regionOk s.dst s.srcL = true → s.keyReady = some u →
    s.srcL % 16 = 0 → inPlaceOrApart s.src s.srcL s.dst s.srcL → s.memRead s.src s.srcL = .ok m →
    ∃ t, exec .cbcDecBuf s = .next t ∧ StoresOnly s t s.dst (cbcPlain u m) ∧
      t = ({ u with dmem := t.dmem, chain := (blocksOf m).getLastD s.chain, resLen := s.srcLen } : State).finish

/-- The model's choice of log entry 7 (20_memory.md R210 leaves the output unspecified): where the output partially overlaps the
input, the block-sequential commands complete, every output byte is a free draw, and no byte outside the output changes. -/
def Obligations.PartialOverlapCompletes : Prop :=
  ∀ (s u : State) (m : List Byte) (i : Instr) (n : Nat), regionsBeforeKey i s = true → s.keyReady = some u →
    s.memRead s.src s.srcL = .ok m →
    ((i = .cbcEncBuf ∨ i = .cbcDecBuf) ∧ s.srcL % 16 = 0 ∧ n = s.srcL ∨ i = .encrypt ∧ n = s.srcL + (16 - s.srcL % 16) ∨
      i = .decrypt ∧ s.srcL % 16 = 0 ∧ n = s.srcL ∧ 1 ≤ ((cbcPlain u m).getLastD 0).toNat ∧
        ((cbcPlain u m).getLastD 0).toNat ≤ 16) →
    overlapsApart s.src s.srcL s.dst n →
    ∃ t, exec i s = .next t ∧
      (∀ k, k < n → t.dmemByte (s.dst + k) = some (Config.freeByte (s.draws + k))) ∧
      (∀ o, ¬ (s.dst ≤ o ∧ o < s.dst + n) → t.dmemByte o = s.dmemByte o) ∧
      t = ({ u with
               dmem := t.dmem, chain := t.chain, draws := s.draws + n
               resLen := BitVec.ofNat 32 (if i = .decrypt then s.srcL - ((cbcPlain u m).getLastD 0).toNat else n) } :
             State).finish

/-! ### Padding and the public composition -/

/-- R530, R531: PAD appends 16 - L mod 16 bytes of that value just after the message, writes RES_LEN, and changes nothing else;
it raises AddressError where the padded region fails CheckRegion. -/
def Obligations.PadCommand : Prop :=
  FormN .pad 0x38 ∧
  ∀ s : State, let n := 16 - s.srcL % 16
    (s.regionOk s.src (s.srcL + n) = false → exec .pad s = .next (s.raise .addressError)) ∧
    (s.regionOk s.src (s.srcL + n) = true →
      ∃ t, exec .pad s = .next t ∧ StoresOnly s t (s.src + s.srcL) (List.replicate n (BitVec.ofNat 8 n)) ∧
        t = ({ s with dmem := t.dmem, resLen := BitVec.ofNat 32 (s.srcL + n) } : State).finish)

/-- R532, R533: UNPAD reads the last byte n of the region, writes L - n to RES_LEN and nothing else; it raises InvalidPadding where
L = 0 or n is 0, over 16 or over L, and AddressError where the region fails CheckRegion. -/
def Obligations.UnpadCommand : Prop :=
  FormN .unpad 0x39 ∧
  ∀ s : State,
    (s.regionOk s.src s.srcL = false → exec .unpad s = .next (s.raise .addressError)) ∧
    (s.regionOk s.src s.srcL = true → s.srcL = 0 → exec .unpad s = .next (s.raise .invalidPadding)) ∧
    (∀ v : Byte, s.regionOk s.src s.srcL = true → s.srcL ≠ 0 → s.dmemByte (s.src + s.srcL - 1) = some v →
      exec .unpad s =
        if v = 0 ∨ 16 < v.toNat ∨ s.srcL < v.toNat then .next (s.raise .invalidPadding)
        else .next ({ s with resLen := BitVec.ofNat 32 (s.srcL - v.toNat) } : State).finish)

/-- ENCRYPT writes the CBC encryption of the padded source to the destination, leaves the last ciphertext block in CHAIN and the
padded length in RES_LEN, and changes nothing else, where the output does not partially overlap the input (45_pkcs7.md R534). -/
def Obligations.EncryptCommand : Prop :=
  FormN .encrypt 0x3A ∧
  ∀ (s u : State) (m : List Byte), let n := 16 - s.srcL % 16
    s.regionOk s.src s.srcL = true → s.regionOk s.dst (s.srcL + n) = true → s.keyReady = some u →
    inPlaceOrApart s.src s.srcL s.dst (s.srcL + n) → s.memRead s.src s.srcL = .ok m →
    let c := cbcCipher u (m ++ List.replicate n (BitVec.ofNat 8 n))
    ∃ t, exec .encrypt s = .next t ∧ StoresOnly s t s.dst (c.flatMap store16) ∧
      t = ({ u with dmem := t.dmem, chain := c.getLastD s.chain, resLen := BitVec.ofNat 32 (s.srcL + n) } : State).finish

/-- DECRYPT checks the padding of the final block, then writes the CBC decryption of the source to the destination, leaves the
last ciphertext block in CHAIN and the unpadded length in RES_LEN, and changes nothing else, where the output does not partially
overlap the input; bad padding writes nothing (45_pkcs7.md R535). -/
def Obligations.DecryptCommand : Prop :=
  FormN .decrypt 0x3B ∧
  ∀ (s u : State) (m : List Byte), s.regionOk s.src s.srcL = true → s.regionOk s.dst s.srcL = true → s.keyReady = some u →
    s.srcL % 16 = 0 → s.srcL ≠ 0 → s.memRead s.src s.srcL = .ok m →
    let n := ((cbcPlain u m).getLastD 0).toNat
    (n = 0 ∨ 16 < n → exec .decrypt s = .next (u.raise .invalidPadding)) ∧
    (1 ≤ n → n ≤ 16 → inPlaceOrApart s.src s.srcL s.dst s.srcL →
      ∃ t, exec .decrypt s = .next t ∧ StoresOnly s t s.dst (cbcPlain u m) ∧
        t = ({ u with dmem := t.dmem, chain := (blocksOf m).getLastD s.chain, resLen := BitVec.ofNat 32 (s.srcL - n) } :
               State).finish)

/-- ENCRYPT, then DECRYPT of the RES_LEN bytes it produced under the same key and IV, gives RES_LEN = L and the message back; PAD,
then UNPAD of RES_LEN bytes, gives RES_LEN = L with the message unchanged (45_pkcs7.md section 2). -/
def Obligations.EncryptThenDecryptRestores : Prop :=
  (∀ (s u : State) (m : List Byte) (d : Nat), let n := s.srcL + (16 - s.srcL % 16)
    s.cfg.legal = true → s.KeyCacheOk → s.keyReady = some u → s.regionOk s.src s.srcL = true → s.regionOk s.dst n = true →
    inPlaceOrApart s.src s.srcL s.dst n → s.memRead s.src s.srcL = .ok m → s.regionOk d n = true → inPlaceOrApart s.dst n d n →
    ∃ t v, exec .encrypt s = .next t ∧ t.resLen.toNat = n ∧ n % 16 = 0 ∧ s.srcL < n ∧ n ≤ s.srcL + 16 ∧
      exec .decrypt { t with srcAddr := s.dstAddr, srcLen := t.resLen, dstAddr := BitVec.ofNat 32 d, chain := s.chain } = .next v ∧
      v.err = false ∧ v.resLen = s.srcLen ∧ ∀ k, k < s.srcL → v.dmemByte (d + k) = m[k]?) ∧
  (∀ s : State, s.cfg.legal = true → s.regionOk s.src (s.srcL + (16 - s.srcL % 16)) = true →
    ∃ t v, exec .pad s = .next t ∧ exec .unpad { t with srcLen := t.resLen } = .next v ∧ v.err = false ∧ v.resLen = s.srcLen ∧
      ∀ k, k < s.srcL → v.dmemByte (s.src + k) = s.dmemByte (s.src + k))

/-! ### Hashes, HMAC and key derivation -/

/-- R571 to R573, R577, R578, R601, R603 to R606, R631: the tables T, s and K, the message order g and the functions of SHA-256
have the values the spec lists; the compression functions are folds of 64 steps over the message words, MD5's read
little-endian, SHA-256's schedule from its recurrence; MD5 leaves words 4 to 7 of the chaining value. -/
def Obligations.CompressionFunctions : Prop :=
  (List.range 64).map md5T = tableT ∧ (List.range 64).map shaK = tableK ∧
  (∀ i, i < 64 → md5Shift i =
    (([[7, 12, 17, 22], [5, 9, 14, 20], [4, 11, 16, 23], [6, 10, 15, 21]] : List (List Nat)).getD (i / 16) []).getD (i % 4) 0) ∧
  (∀ i, i < 16 → md5Index i = i ∧ md5Index (i + 16) = (5 * (i + 16) + 1) % 16 ∧ md5Index (i + 32) = (3 * (i + 32) + 5) % 16 ∧
    md5Index (i + 48) = 7 * (i + 48) % 16) ∧
  (∀ x y z : Word, shaCh x y z = (x &&& y) ^^^ (~~~x &&& z) ∧ shaMaj x y z = (x &&& y) ^^^ (x &&& z) ^^^ (y &&& z)) ∧
  (∀ x : Word, shaSum0 x = x.rotateRight 2 ^^^ x.rotateRight 13 ^^^ x.rotateRight 22 ∧
    shaSum1 x = x.rotateRight 6 ^^^ x.rotateRight 11 ^^^ x.rotateRight 25 ∧
    shaSig0 x = x.rotateRight 7 ^^^ x.rotateRight 18 ^^^ (x >>> 3) ∧
    shaSig1 x = x.rotateRight 17 ^^^ x.rotateRight 19 ^^^ (x >>> 10)) ∧
  (∀ (h : Quad) (b : List Byte),
    let word := fun j : Nat => (b.getD (4 * j) 0).setWidth 32 + ((b.getD (4 * j + 1) 0).setWidth 32 <<< 8) +
      ((b.getD (4 * j + 2) 0).setWidth 32 <<< 16) + ((b.getD (4 * j + 3) 0).setWidth 32 <<< 24)
    let one := fun (q : Quad) (i : Nat) =>
      let f := if i < 16 then (q.w1 &&& q.w2) ||| (~~~q.w1 &&& q.w3)
        else if i < 32 then (q.w1 &&& q.w3) ||| (q.w2 &&& ~~~q.w3)
        else if i < 48 then q.w1 ^^^ q.w2 ^^^ q.w3
        else q.w2 ^^^ (q.w1 ||| ~~~q.w3)
      (⟨q.w3, q.w1 + (q.w0 + f + md5T i + word (md5Index i)).rotateLeft (md5Shift i), q.w1, q.w2⟩ : Quad)
    let q := (List.range 64).foldl one h
    md5Compress h b = ⟨h.w0 + q.w0, h.w1 + q.w1, h.w2 + q.w2, h.w3 + q.w3⟩) ∧
  (∀ (h : Oct) (b : List Byte),
    let w := fun t => (shaSchedule b).getD t 0
    let one := fun (o : Oct) (t : Nat) =>
      let t1 := o.w7 + shaSum1 o.w4 + shaCh o.w4 o.w5 o.w6 + shaK t + w t
      (⟨t1 + (shaSum0 o.w0 + shaMaj o.w0 o.w1 o.w2), o.w0, o.w1, o.w2, o.w3 + t1, o.w4, o.w5, o.w6⟩ : Oct)
    let o := (List.range 64).foldl one h
    (shaSchedule b).length = 64 ∧
    (∀ t, t < 16 → w t = wordOf (b.getD (4 * t) 0) (b.getD (4 * t + 1) 0) (b.getD (4 * t + 2) 0) (b.getD (4 * t + 3) 0)) ∧
    (∀ t, 16 ≤ t → t < 64 → w t = shaSig1 (w (t - 2)) + w (t - 7) + shaSig0 (w (t - 15)) + w (t - 16)) ∧
    shaCompress h b = ⟨h.w0 + o.w0, h.w1 + o.w1, h.w2 + o.w2, h.w3 + o.w3, h.w4 + o.w4, h.w5 + o.w5, h.w6 + o.w6, h.w7 + o.w7⟩) ∧
  (∀ (h : Oct) (b : List Byte), let q := md5Compress ⟨h.w0, h.w1, h.w2, h.w3⟩ b
    compress .md5 h b = ⟨q.w0, q.w1, q.w2, q.w3, h.w4, h.w5, h.w6, h.w7⟩ ∧ compress .sha256 h b = shaCompress h b)

/-- R632, R633: HASH_INIT loads the initial chaining value and zeroes HLEN; HASH_UPDATE compresses the source's 64-byte blocks in
order and adds L to HLEN mod 2^64, after its region and length checks; neither changes anything else. -/
def Obligations.HashStreamCommands : Prop :=
  FormH .hashInit 0x40 ∧ FormH .hashUpdate 0x41 ∧
  (∀ (alg : Alg) (s : State),
    exec (.hashInit alg) s = .next ({ s with hstate := initialValue alg, hlen := 0 } : State).finish) ∧
  (∀ (alg : Alg) (s : State),
    (s.regionOk s.src s.srcL = false → exec (.hashUpdate alg) s = .next (s.raise .addressError)) ∧
    (s.regionOk s.src s.srcL = true → s.srcL % 64 ≠ 0 → exec (.hashUpdate alg) s = .next (s.raise .internalError)) ∧
    (∀ m, s.regionOk s.src s.srcL = true → s.srcL % 64 = 0 → s.memRead s.src s.srcL = .ok m →
      exec (.hashUpdate alg) s =
        .next ({ s with hstate := foldBlocks alg s.hstate m, hlen := s.hlen + BitVec.ofNat 64 s.srcL } : State).finish))

/-- R634 to R637: HASH_FINAL compresses the rest of the message with its padding and length field, HASH a whole message from the
initial value; each leaves the chaining value in HSTATE and the byte count in HLEN, writes the digest to DST and its length to
RES_LEN, and changes nothing else. -/
def Obligations.HashFinalAndHashCommands : Prop :=
  FormH .hashFinal 0x42 ∧ FormH .hash 0x43 ∧
  ∀ (alg : Alg) (s : State), let d := (match alg with | .md5 => 16 | .sha256 => 32)
    (s.regionOk s.src s.srcL = false ∨ s.regionOk s.dst d = false →
      exec (.hashFinal alg) s = .next (s.raise .addressError) ∧ exec (.hash alg) s = .next (s.raise .addressError)) ∧
    (∀ m, s.regionOk s.src s.srcL = true → s.regionOk s.dst d = true → s.memRead s.src s.srcL = .ok m →
      let n := s.hlen + BitVec.ofNat 64 s.srcL
      let h := foldBlocks alg s.hstate (paddedMessage alg m n.toNat)
      let g := foldBlocks alg (initialValue alg) (paddedMessage alg m s.srcL)
      (∃ t, exec (.hashFinal alg) s = .next t ∧ StoresOnly s t s.dst (digestBytes alg h) ∧
        t = ({ s with dmem := t.dmem, hstate := h, hlen := n, resLen := BitVec.ofNat 32 d } : State).finish) ∧
      (∃ t, exec (.hash alg) s = .next t ∧ StoresOnly s t s.dst (digestBytes alg g) ∧
        t = ({ s with dmem := t.dmem, hstate := g, hlen := BitVec.ofNat 64 s.srcL, resLen := BitVec.ofNat 32 d } :
               State).finish))

/-- A message hashed with HASH_INIT, any HASH_UPDATEs of multiples of 64 bytes and HASH_FINAL of the rest leaves the digest,
HSTATE, HLEN and RES_LEN that HASH leaves (48_hash_hmac.md section 2). -/
def Obligations.StreamingEqualsOneShot : Prop :=
  ∀ (alg : Alg) (s : State) (m : List Byte) (parts : List Nat), s.cfg.legal = true → s.regionOk s.src s.srcL = true →
    s.regionOk s.dst (digestLen alg) = true → s.memRead s.src s.srcL = .ok m → (∀ n ∈ parts, n % 64 = 0) → parts.sum ≤ s.srcL →
    ∃ t v, andThen (exec (.hashInit alg) s) (hashInParts alg parts) = .next t ∧ exec (.hash alg) s = .next v ∧
      t.hstate = v.hstate ∧ t.hlen = v.hlen ∧ t.resLen = v.resLen ∧ ∀ o, t.dmemByte o = v.dmemByte o

/-- R650, R651, R652: HMAC writes the MAC of the message under the key, hashed first where it is over 64 bytes, to DST and its
length to RES_LEN, and changes nothing else; a region that fails CheckRegion raises AddressError. -/
def Obligations.HmacCommand : Prop :=
  FormH .hmac 0x48 ∧
  ∀ (alg : Alg) (s : State), let d := (match alg with | .md5 => 16 | .sha256 => 32)
    (s.regionOk s.src s.srcL = false ∨ s.regionOk s.aux s.auxL = false ∨ s.regionOk s.dst d = false →
      exec (.hmac alg) s = .next (s.raise .addressError)) ∧
    (∀ m k, s.regionOk s.src s.srcL = true → s.regionOk s.aux s.auxL = true → s.regionOk s.dst d = true →
      s.memRead s.src s.srcL = .ok m → s.memRead s.aux s.auxL = .ok k →
      ∃ t, exec (.hmac alg) s = .next t ∧ StoresOnly s t s.dst (messageMac alg k m) ∧
        t = ({ s with dmem := t.dmem, resLen := BitVec.ofNat 32 d } : State).finish)

/-- R680 to R683: PBKDF2 and EVPKDF write 4 * KDF_WORDS bytes of key to DST and that length to RES_LEN, ITER = 0 acting as 1, and
change nothing else; a region that fails CheckRegion raises AddressError. -/
def Obligations.KeyDerivationCommands : Prop :=
  FormH .pbkdf2 0x50 ∧ FormH .evpkdf 0x51 ∧
  ∀ (alg : Alg) (s : State), let n := 4 * s.kdfWords.toNat
    let c := if s.iter = 0 then 1 else s.iter.toNat
    (s.regionOk s.aux s.auxL = false ∨ s.regionOk s.salt s.saltL = false ∨ s.regionOk s.dst n = false →
      exec (.pbkdf2 alg) s = .next (s.raise .addressError) ∧ exec (.evpkdf alg) s = .next (s.raise .addressError)) ∧
    (∀ p salt, s.regionOk s.aux s.auxL = true → s.regionOk s.salt s.saltL = true → s.regionOk s.dst n = true →
      s.memRead s.aux s.auxL = .ok p → s.memRead s.salt s.saltL = .ok salt →
      (∃ t, exec (.pbkdf2 alg) s = .next t ∧ StoresOnly s t s.dst (pbkdf2Key alg p salt c n) ∧
        t = ({ s with dmem := t.dmem, resLen := BitVec.ofNat 32 n } : State).finish) ∧
      (∃ t, exec (.evpkdf alg) s = .next t ∧ StoresOnly s t s.dst (evpkdfKey alg p salt c n) ∧
        t = ({ s with dmem := t.dmem, resLen := BitVec.ofNat 32 n } : State).finish))
end

