-- ==== Sys2Proof/Laws/Bytes.lean ====
section
/-! SUPPORT. The laws of bytes and words (spec 00_scope.md R10, 20_memory.md R204). -/

namespace Sys2Proof.Machine

@[simp] theorem byteOf_wordOf_zero (b0 b1 b2 b3 : Byte) : byteOf (wordOf b0 b1 b2 b3) 0 = b0 := by
  apply BitVec.eq_of_getLsbD_eq; intro i hi
  simp only [byteOf, wordOf, BitVec.getLsbD_extractLsb', BitVec.getLsbD_append]
  have h1 : ¬ (24 - 8 * 0 + i < 8) := by omega
  have h2 : ¬ (24 - 8 * 0 + i - 8 < 8) := by omega
  have h3 : ¬ (24 - 8 * 0 + i - 8 - 8 < 8) := by omega
  have h4 : 24 + i - 8 - 8 - 8 = i := by omega
  simp [h1, h2, h3, hi, h4]

@[simp] theorem byteOf_wordOf_one (b0 b1 b2 b3 : Byte) : byteOf (wordOf b0 b1 b2 b3) 1 = b1 := by
  apply BitVec.eq_of_getLsbD_eq; intro i hi
  simp only [byteOf, wordOf, BitVec.getLsbD_extractLsb', BitVec.getLsbD_append]
  have h1 : ¬ (24 - 8 * 1 + i < 8) := by omega
  have h2 : ¬ (24 - 8 * 1 + i - 8 < 8) := by omega
  have h4 : 16 + i - 8 - 8 = i := by omega
  simp [h1, h2, hi, h4]

@[simp] theorem byteOf_wordOf_two (b0 b1 b2 b3 : Byte) : byteOf (wordOf b0 b1 b2 b3) 2 = b2 := by
  apply BitVec.eq_of_getLsbD_eq; intro i hi
  simp only [byteOf, wordOf, BitVec.getLsbD_extractLsb', BitVec.getLsbD_append]
  have h1 : ¬ (24 - 8 * 2 + i < 8) := by omega
  have h4 : 8 + i - 8 = i := by omega
  simp [h1, hi, h4]

@[simp] theorem byteOf_wordOf_three (b0 b1 b2 b3 : Byte) : byteOf (wordOf b0 b1 b2 b3) 3 = b3 := by
  apply BitVec.eq_of_getLsbD_eq; intro i hi
  simp only [byteOf, wordOf, BitVec.getLsbD_extractLsb', BitVec.getLsbD_append]
  simp [hi]

/-- A word is the word of its four bytes. -/
@[simp] theorem wordOf_byteOf (w : Word) : wordOf (byteOf w 0) (byteOf w 1) (byteOf w 2) (byteOf w 3) = w := by
  apply BitVec.eq_of_getLsbD_eq; intro i hi
  simp only [byteOf, wordOf, BitVec.getLsbD_extractLsb', BitVec.getLsbD_append]
  by_cases h1 : i < 8
  · simp [h1]
  · by_cases h2 : i - 8 < 8
    · have : 8 + (i - 8) = i := by omega
      simp [h1, h2, this]
    · by_cases h3 : i - 8 - 8 < 8
      · have : 16 + (i - 8 - 8) = i := by omega
        simp [h1, h2, h3, this]
      · have h4 : i - 8 - 8 - 8 < 8 := by omega
        have : 24 + (i - 8 - 8 - 8) = i := by omega
        simp [h1, h2, h3, h4, this]

@[simp] theorem be32_length (w : Word) : (be32 w).length = 4 := rfl

@[simp] theorem le32_length (w : Word) : (le32 w).length = 4 := rfl

@[simp] theorem be64_length (w : BitVec 64) : (be64 w).length = 8 := rfl

@[simp] theorem le64_length (w : BitVec 64) : (le64 w).length = 8 := rfl

@[simp] theorem store16_length (q : Quad) : (store16 q).length = 16 := rfl

@[simp] theorem beWord_be32 (w : Word) : beWord (be32 w) 0 = w := by simp [beWord, be32, byteAt]

/-- The load of a stored block is the block (R204). -/
@[simp] theorem load16_store16 (q : Quad) : load16 (store16 q) = q := by
  simp [load16, store16, beWord, byteAt, be32]

/-- The store of a loaded block is its sixteen bytes (R204). -/
theorem store16_load16 {vs : List Byte} (h : vs.length = 16) : store16 (load16 vs) = vs := by
  obtain ⟨b0, b1, b2, b3, b4, b5, b6, b7, b8, b9, b10, b11, b12, b13, b14, b15, rfl⟩ :
      ∃ b0 b1 b2 b3 b4 b5 b6 b7 b8 b9 b10 b11 b12 b13 b14 b15 : Byte,
        vs = [b0, b1, b2, b3, b4, b5, b6, b7, b8, b9, b10, b11, b12, b13, b14, b15] := by
    match vs, h with
    | [b0, b1, b2, b3, b4, b5, b6, b7, b8, b9, b10, b11, b12, b13, b14, b15], _ =>
      exact ⟨b0, b1, b2, b3, b4, b5, b6, b7, b8, b9, b10, b11, b12, b13, b14, b15, rfl⟩
  simp [load16, store16, beWord, byteAt, be32]

/-- Exclusive-or acts on each byte of a word. -/
@[simp] theorem byteOf_xor (v w : Word) (k : Nat) : byteOf (v ^^^ w) k = byteOf v k ^^^ byteOf w k := by
  apply BitVec.eq_of_getLsbD_eq; intro i hi
  simp [byteOf, hi]

/-- Exclusive-or of two words made of bytes. -/
theorem wordOf_xor (a0 a1 a2 a3 b0 b1 b2 b3 : Byte) :
    wordOf a0 a1 a2 a3 ^^^ wordOf b0 b1 b2 b3 = wordOf (a0 ^^^ b0) (a1 ^^^ b1) (a2 ^^^ b2) (a3 ^^^ b3) := by
  rw [← wordOf_byteOf (wordOf a0 a1 a2 a3 ^^^ wordOf b0 b1 b2 b3)]; simp

/-- Adding the same group of words twice restores the first. -/
@[simp] theorem Quad.xor_xor_cancel (p q : Quad) : (p.xor q).xor q = p := by
  cases p; cases q; simp [Quad.xor]

@[simp] theorem Quad.xor_zero (p : Quad) : p.xor Quad.zero = p := by cases p; simp [Quad.xor, Quad.zero]

end Sys2Proof.Machine
end

