-- ==== Sys2Proof/Laws/State.lean ====
section
/-! SUPPORT. One lemma for each field under each update of State, true by rfl, so that no proof unfolds a record update. -/

namespace Sys2Proof.Machine

variable (s : State)

@[simp] theorem State.finish_eq : s.finish = s.record none := rfl

@[simp] theorem State.raise_eq (e : Err) : s.raise e = s.record (some e) := rfl

@[simp] theorem State.record_cfg (e : Option Err) : (s.record e).cfg = s.cfg := rfl
@[simp] theorem State.record_phase (e : Option Err) : (s.record e).phase = .idle := rfl
@[simp] theorem State.record_done (e : Option Err) : (s.record e).done = true := rfl
@[simp] theorem State.record_err (e : Option Err) : (s.record e).err = e.isSome := rfl
@[simp] theorem State.record_errCode (e : Option Err) : (s.record e).errCode = codeOf e := rfl
@[simp] theorem State.record_keyValid (e : Option Err) : (s.record e).keyValid = s.keyValid := rfl
@[simp] theorem State.record_nk (e : Option Err) : (s.record e).nk = s.nk := rfl
@[simp] theorem State.record_nr (e : Option Err) : (s.record e).nr = s.nr := rfl
@[simp] theorem State.record_ctrl (e : Option Err) : (s.record e).ctrl = s.ctrl := rfl
@[simp] theorem State.record_irqStatus (e : Option Err) : (s.record e).irqStatus = s.irqStatus ||| pendingOf e := rfl
@[simp] theorem State.record_keyLen (e : Option Err) : (s.record e).keyLen = s.keyLen := rfl
@[simp] theorem State.record_key (e : Option Err) : (s.record e).key = s.key := rfl
@[simp] theorem State.record_chain (e : Option Err) : (s.record e).chain = s.chain := rfl
@[simp] theorem State.record_block (e : Option Err) : (s.record e).block = s.block := rfl
@[simp] theorem State.record_hstate (e : Option Err) : (s.record e).hstate = s.hstate := rfl
@[simp] theorem State.record_hlen (e : Option Err) : (s.record e).hlen = s.hlen := rfl
@[simp] theorem State.record_resLen (e : Option Err) : (s.record e).resLen = s.resLen := rfl
@[simp] theorem State.record_result (e : Option Err) : (s.record e).result = s.result := rfl
@[simp] theorem State.record_srcAddr (e : Option Err) : (s.record e).srcAddr = s.srcAddr := rfl
@[simp] theorem State.record_srcLen (e : Option Err) : (s.record e).srcLen = s.srcLen := rfl
@[simp] theorem State.record_dstAddr (e : Option Err) : (s.record e).dstAddr = s.dstAddr := rfl
@[simp] theorem State.record_auxAddr (e : Option Err) : (s.record e).auxAddr = s.auxAddr := rfl
@[simp] theorem State.record_auxLen (e : Option Err) : (s.record e).auxLen = s.auxLen := rfl
@[simp] theorem State.record_saltAddr (e : Option Err) : (s.record e).saltAddr = s.saltAddr := rfl
@[simp] theorem State.record_saltLen (e : Option Err) : (s.record e).saltLen = s.saltLen := rfl
@[simp] theorem State.record_iter (e : Option Err) : (s.record e).iter = s.iter := rfl
@[simp] theorem State.record_kdfWords (e : Option Err) : (s.record e).kdfWords = s.kdfWords := rfl
@[simp] theorem State.record_rk (e : Option Err) : (s.record e).rk = s.rk := rfl
@[simp] theorem State.record_irk (e : Option Err) : (s.record e).irk = s.irk := rfl
@[simp] theorem State.record_scratch (e : Option Err) : (s.record e).scratch = Scratch.zero := rfl
@[simp] theorem State.record_dmem (e : Option Err) : (s.record e).dmem = s.dmem := rfl
@[simp] theorem State.record_rstLow (e : Option Err) : (s.record e).rstLow = s.rstLow := rfl
@[simp] theorem State.record_draws (e : Option Err) : (s.record e).draws = s.draws := rfl
@[simp] theorem State.record_dmemEpoch (e : Option Err) : (s.record e).dmemEpoch = s.dmemEpoch := rfl
@[simp] theorem State.record_rdata (e : Option Err) : (s.record e).rdata = s.rdata := rfl
@[simp] theorem State.record_inputs (e : Option Err) : (s.record e).inputs = s.inputs := rfl
@[simp] theorem State.record_turns (e : Option Err) : (s.record e).turns = s.turns := rfl

@[simp] theorem State.memWrite_cfg (a : Nat) (vs : List Byte) : (s.memWrite a vs).cfg = s.cfg := rfl
@[simp] theorem State.memWrite_phase (a : Nat) (vs : List Byte) : (s.memWrite a vs).phase = s.phase := rfl
@[simp] theorem State.memWrite_done (a : Nat) (vs : List Byte) : (s.memWrite a vs).done = s.done := rfl
@[simp] theorem State.memWrite_err (a : Nat) (vs : List Byte) : (s.memWrite a vs).err = s.err := rfl
@[simp] theorem State.memWrite_errCode (a : Nat) (vs : List Byte) : (s.memWrite a vs).errCode = s.errCode := rfl
@[simp] theorem State.memWrite_keyValid (a : Nat) (vs : List Byte) : (s.memWrite a vs).keyValid = s.keyValid := rfl
@[simp] theorem State.memWrite_nk (a : Nat) (vs : List Byte) : (s.memWrite a vs).nk = s.nk := rfl
@[simp] theorem State.memWrite_nr (a : Nat) (vs : List Byte) : (s.memWrite a vs).nr = s.nr := rfl
@[simp] theorem State.memWrite_ctrl (a : Nat) (vs : List Byte) : (s.memWrite a vs).ctrl = s.ctrl := rfl
@[simp] theorem State.memWrite_irqStatus (a : Nat) (vs : List Byte) : (s.memWrite a vs).irqStatus = s.irqStatus := rfl
@[simp] theorem State.memWrite_keyLen (a : Nat) (vs : List Byte) : (s.memWrite a vs).keyLen = s.keyLen := rfl
@[simp] theorem State.memWrite_key (a : Nat) (vs : List Byte) : (s.memWrite a vs).key = s.key := rfl
@[simp] theorem State.memWrite_chain (a : Nat) (vs : List Byte) : (s.memWrite a vs).chain = s.chain := rfl
@[simp] theorem State.memWrite_block (a : Nat) (vs : List Byte) : (s.memWrite a vs).block = s.block := rfl
@[simp] theorem State.memWrite_hstate (a : Nat) (vs : List Byte) : (s.memWrite a vs).hstate = s.hstate := rfl
@[simp] theorem State.memWrite_hlen (a : Nat) (vs : List Byte) : (s.memWrite a vs).hlen = s.hlen := rfl
@[simp] theorem State.memWrite_resLen (a : Nat) (vs : List Byte) : (s.memWrite a vs).resLen = s.resLen := rfl
@[simp] theorem State.memWrite_result (a : Nat) (vs : List Byte) : (s.memWrite a vs).result = s.result := rfl
@[simp] theorem State.memWrite_srcAddr (a : Nat) (vs : List Byte) : (s.memWrite a vs).srcAddr = s.srcAddr := rfl
@[simp] theorem State.memWrite_srcLen (a : Nat) (vs : List Byte) : (s.memWrite a vs).srcLen = s.srcLen := rfl
@[simp] theorem State.memWrite_dstAddr (a : Nat) (vs : List Byte) : (s.memWrite a vs).dstAddr = s.dstAddr := rfl
@[simp] theorem State.memWrite_auxAddr (a : Nat) (vs : List Byte) : (s.memWrite a vs).auxAddr = s.auxAddr := rfl
@[simp] theorem State.memWrite_auxLen (a : Nat) (vs : List Byte) : (s.memWrite a vs).auxLen = s.auxLen := rfl
@[simp] theorem State.memWrite_saltAddr (a : Nat) (vs : List Byte) : (s.memWrite a vs).saltAddr = s.saltAddr := rfl
@[simp] theorem State.memWrite_saltLen (a : Nat) (vs : List Byte) : (s.memWrite a vs).saltLen = s.saltLen := rfl
@[simp] theorem State.memWrite_iter (a : Nat) (vs : List Byte) : (s.memWrite a vs).iter = s.iter := rfl
@[simp] theorem State.memWrite_kdfWords (a : Nat) (vs : List Byte) : (s.memWrite a vs).kdfWords = s.kdfWords := rfl
@[simp] theorem State.memWrite_rk (a : Nat) (vs : List Byte) : (s.memWrite a vs).rk = s.rk := rfl
@[simp] theorem State.memWrite_irk (a : Nat) (vs : List Byte) : (s.memWrite a vs).irk = s.irk := rfl
@[simp] theorem State.memWrite_scratch (a : Nat) (vs : List Byte) : (s.memWrite a vs).scratch = s.scratch := rfl
@[simp] theorem State.memWrite_dmem (a : Nat) (vs : List Byte) : (s.memWrite a vs).dmem = Memory.writeBytes s.dmem a vs := rfl
@[simp] theorem State.memWrite_rstLow (a : Nat) (vs : List Byte) : (s.memWrite a vs).rstLow = s.rstLow := rfl
@[simp] theorem State.memWrite_draws (a : Nat) (vs : List Byte) : (s.memWrite a vs).draws = s.draws := rfl
@[simp] theorem State.memWrite_dmemEpoch (a : Nat) (vs : List Byte) : (s.memWrite a vs).dmemEpoch = s.dmemEpoch := rfl
@[simp] theorem State.memWrite_rdata (a : Nat) (vs : List Byte) : (s.memWrite a vs).rdata = s.rdata := rfl
@[simp] theorem State.memWrite_inputs (a : Nat) (vs : List Byte) : (s.memWrite a vs).inputs = s.inputs := rfl
@[simp] theorem State.memWrite_turns (a : Nat) (vs : List Byte) : (s.memWrite a vs).turns = s.turns := rfl

@[simp] theorem State.drawn_cfg (n : Nat) : (s.drawn n).cfg = s.cfg := rfl
@[simp] theorem State.drawn_phase (n : Nat) : (s.drawn n).phase = s.phase := rfl
@[simp] theorem State.drawn_done (n : Nat) : (s.drawn n).done = s.done := rfl
@[simp] theorem State.drawn_err (n : Nat) : (s.drawn n).err = s.err := rfl
@[simp] theorem State.drawn_errCode (n : Nat) : (s.drawn n).errCode = s.errCode := rfl
@[simp] theorem State.drawn_keyValid (n : Nat) : (s.drawn n).keyValid = s.keyValid := rfl
@[simp] theorem State.drawn_nk (n : Nat) : (s.drawn n).nk = s.nk := rfl
@[simp] theorem State.drawn_nr (n : Nat) : (s.drawn n).nr = s.nr := rfl
@[simp] theorem State.drawn_ctrl (n : Nat) : (s.drawn n).ctrl = s.ctrl := rfl
@[simp] theorem State.drawn_irqStatus (n : Nat) : (s.drawn n).irqStatus = s.irqStatus := rfl
@[simp] theorem State.drawn_keyLen (n : Nat) : (s.drawn n).keyLen = s.keyLen := rfl
@[simp] theorem State.drawn_key (n : Nat) : (s.drawn n).key = s.key := rfl
@[simp] theorem State.drawn_chain (n : Nat) : (s.drawn n).chain = s.chain := rfl
@[simp] theorem State.drawn_block (n : Nat) : (s.drawn n).block = s.block := rfl
@[simp] theorem State.drawn_hstate (n : Nat) : (s.drawn n).hstate = s.hstate := rfl
@[simp] theorem State.drawn_hlen (n : Nat) : (s.drawn n).hlen = s.hlen := rfl
@[simp] theorem State.drawn_resLen (n : Nat) : (s.drawn n).resLen = s.resLen := rfl
@[simp] theorem State.drawn_result (n : Nat) : (s.drawn n).result = s.result := rfl
@[simp] theorem State.drawn_srcAddr (n : Nat) : (s.drawn n).srcAddr = s.srcAddr := rfl
@[simp] theorem State.drawn_srcLen (n : Nat) : (s.drawn n).srcLen = s.srcLen := rfl
@[simp] theorem State.drawn_dstAddr (n : Nat) : (s.drawn n).dstAddr = s.dstAddr := rfl
@[simp] theorem State.drawn_auxAddr (n : Nat) : (s.drawn n).auxAddr = s.auxAddr := rfl
@[simp] theorem State.drawn_auxLen (n : Nat) : (s.drawn n).auxLen = s.auxLen := rfl
@[simp] theorem State.drawn_saltAddr (n : Nat) : (s.drawn n).saltAddr = s.saltAddr := rfl
@[simp] theorem State.drawn_saltLen (n : Nat) : (s.drawn n).saltLen = s.saltLen := rfl
@[simp] theorem State.drawn_iter (n : Nat) : (s.drawn n).iter = s.iter := rfl
@[simp] theorem State.drawn_kdfWords (n : Nat) : (s.drawn n).kdfWords = s.kdfWords := rfl
@[simp] theorem State.drawn_rk (n : Nat) : (s.drawn n).rk = s.rk := rfl
@[simp] theorem State.drawn_irk (n : Nat) : (s.drawn n).irk = s.irk := rfl
@[simp] theorem State.drawn_scratch (n : Nat) : (s.drawn n).scratch = s.scratch := rfl
@[simp] theorem State.drawn_dmem (n : Nat) : (s.drawn n).dmem = s.dmem := rfl
@[simp] theorem State.drawn_rstLow (n : Nat) : (s.drawn n).rstLow = s.rstLow := rfl
@[simp] theorem State.drawn_draws (n : Nat) : (s.drawn n).draws = s.draws + n := rfl
@[simp] theorem State.drawn_dmemEpoch (n : Nat) : (s.drawn n).dmemEpoch = s.dmemEpoch := rfl
@[simp] theorem State.drawn_rdata (n : Nat) : (s.drawn n).rdata = s.rdata := rfl
@[simp] theorem State.drawn_inputs (n : Nat) : (s.drawn n).inputs = s.inputs := rfl
@[simp] theorem State.drawn_turns (n : Nat) : (s.drawn n).turns = s.turns := rfl

@[simp] theorem State.withResLen_cfg (n : Nat) : (s.withResLen n).cfg = s.cfg := rfl
@[simp] theorem State.withResLen_phase (n : Nat) : (s.withResLen n).phase = s.phase := rfl
@[simp] theorem State.withResLen_done (n : Nat) : (s.withResLen n).done = s.done := rfl
@[simp] theorem State.withResLen_err (n : Nat) : (s.withResLen n).err = s.err := rfl
@[simp] theorem State.withResLen_errCode (n : Nat) : (s.withResLen n).errCode = s.errCode := rfl
@[simp] theorem State.withResLen_keyValid (n : Nat) : (s.withResLen n).keyValid = s.keyValid := rfl
@[simp] theorem State.withResLen_nk (n : Nat) : (s.withResLen n).nk = s.nk := rfl
@[simp] theorem State.withResLen_nr (n : Nat) : (s.withResLen n).nr = s.nr := rfl
@[simp] theorem State.withResLen_ctrl (n : Nat) : (s.withResLen n).ctrl = s.ctrl := rfl
@[simp] theorem State.withResLen_irqStatus (n : Nat) : (s.withResLen n).irqStatus = s.irqStatus := rfl
@[simp] theorem State.withResLen_keyLen (n : Nat) : (s.withResLen n).keyLen = s.keyLen := rfl
@[simp] theorem State.withResLen_key (n : Nat) : (s.withResLen n).key = s.key := rfl
@[simp] theorem State.withResLen_chain (n : Nat) : (s.withResLen n).chain = s.chain := rfl
@[simp] theorem State.withResLen_block (n : Nat) : (s.withResLen n).block = s.block := rfl
@[simp] theorem State.withResLen_hstate (n : Nat) : (s.withResLen n).hstate = s.hstate := rfl
@[simp] theorem State.withResLen_hlen (n : Nat) : (s.withResLen n).hlen = s.hlen := rfl
@[simp] theorem State.withResLen_resLen (n : Nat) : (s.withResLen n).resLen = BitVec.ofNat 32 n := rfl
@[simp] theorem State.withResLen_result (n : Nat) : (s.withResLen n).result = s.result := rfl
@[simp] theorem State.withResLen_srcAddr (n : Nat) : (s.withResLen n).srcAddr = s.srcAddr := rfl
@[simp] theorem State.withResLen_srcLen (n : Nat) : (s.withResLen n).srcLen = s.srcLen := rfl
@[simp] theorem State.withResLen_dstAddr (n : Nat) : (s.withResLen n).dstAddr = s.dstAddr := rfl
@[simp] theorem State.withResLen_auxAddr (n : Nat) : (s.withResLen n).auxAddr = s.auxAddr := rfl
@[simp] theorem State.withResLen_auxLen (n : Nat) : (s.withResLen n).auxLen = s.auxLen := rfl
@[simp] theorem State.withResLen_saltAddr (n : Nat) : (s.withResLen n).saltAddr = s.saltAddr := rfl
@[simp] theorem State.withResLen_saltLen (n : Nat) : (s.withResLen n).saltLen = s.saltLen := rfl
@[simp] theorem State.withResLen_iter (n : Nat) : (s.withResLen n).iter = s.iter := rfl
@[simp] theorem State.withResLen_kdfWords (n : Nat) : (s.withResLen n).kdfWords = s.kdfWords := rfl
@[simp] theorem State.withResLen_rk (n : Nat) : (s.withResLen n).rk = s.rk := rfl
@[simp] theorem State.withResLen_irk (n : Nat) : (s.withResLen n).irk = s.irk := rfl
@[simp] theorem State.withResLen_scratch (n : Nat) : (s.withResLen n).scratch = s.scratch := rfl
@[simp] theorem State.withResLen_dmem (n : Nat) : (s.withResLen n).dmem = s.dmem := rfl
@[simp] theorem State.withResLen_rstLow (n : Nat) : (s.withResLen n).rstLow = s.rstLow := rfl
@[simp] theorem State.withResLen_draws (n : Nat) : (s.withResLen n).draws = s.draws := rfl
@[simp] theorem State.withResLen_dmemEpoch (n : Nat) : (s.withResLen n).dmemEpoch = s.dmemEpoch := rfl
@[simp] theorem State.withResLen_rdata (n : Nat) : (s.withResLen n).rdata = s.rdata := rfl
@[simp] theorem State.withResLen_inputs (n : Nat) : (s.withResLen n).inputs = s.inputs := rfl
@[simp] theorem State.withResLen_turns (n : Nat) : (s.withResLen n).turns = s.turns := rfl

@[simp] theorem State.withBlock_cfg (q : Quad) : (s.withBlock q).cfg = s.cfg := rfl
@[simp] theorem State.withBlock_phase (q : Quad) : (s.withBlock q).phase = s.phase := rfl
@[simp] theorem State.withBlock_done (q : Quad) : (s.withBlock q).done = s.done := rfl
@[simp] theorem State.withBlock_err (q : Quad) : (s.withBlock q).err = s.err := rfl
@[simp] theorem State.withBlock_errCode (q : Quad) : (s.withBlock q).errCode = s.errCode := rfl
@[simp] theorem State.withBlock_keyValid (q : Quad) : (s.withBlock q).keyValid = s.keyValid := rfl
@[simp] theorem State.withBlock_nk (q : Quad) : (s.withBlock q).nk = s.nk := rfl
@[simp] theorem State.withBlock_nr (q : Quad) : (s.withBlock q).nr = s.nr := rfl
@[simp] theorem State.withBlock_ctrl (q : Quad) : (s.withBlock q).ctrl = s.ctrl := rfl
@[simp] theorem State.withBlock_irqStatus (q : Quad) : (s.withBlock q).irqStatus = s.irqStatus := rfl
@[simp] theorem State.withBlock_keyLen (q : Quad) : (s.withBlock q).keyLen = s.keyLen := rfl
@[simp] theorem State.withBlock_key (q : Quad) : (s.withBlock q).key = s.key := rfl
@[simp] theorem State.withBlock_chain (q : Quad) : (s.withBlock q).chain = s.chain := rfl
@[simp] theorem State.withBlock_block (q : Quad) : (s.withBlock q).block = q := rfl
@[simp] theorem State.withBlock_hstate (q : Quad) : (s.withBlock q).hstate = s.hstate := rfl
@[simp] theorem State.withBlock_hlen (q : Quad) : (s.withBlock q).hlen = s.hlen := rfl
@[simp] theorem State.withBlock_resLen (q : Quad) : (s.withBlock q).resLen = s.resLen := rfl
@[simp] theorem State.withBlock_result (q : Quad) : (s.withBlock q).result = s.result := rfl
@[simp] theorem State.withBlock_srcAddr (q : Quad) : (s.withBlock q).srcAddr = s.srcAddr := rfl
@[simp] theorem State.withBlock_srcLen (q : Quad) : (s.withBlock q).srcLen = s.srcLen := rfl
@[simp] theorem State.withBlock_dstAddr (q : Quad) : (s.withBlock q).dstAddr = s.dstAddr := rfl
@[simp] theorem State.withBlock_auxAddr (q : Quad) : (s.withBlock q).auxAddr = s.auxAddr := rfl
@[simp] theorem State.withBlock_auxLen (q : Quad) : (s.withBlock q).auxLen = s.auxLen := rfl
@[simp] theorem State.withBlock_saltAddr (q : Quad) : (s.withBlock q).saltAddr = s.saltAddr := rfl
@[simp] theorem State.withBlock_saltLen (q : Quad) : (s.withBlock q).saltLen = s.saltLen := rfl
@[simp] theorem State.withBlock_iter (q : Quad) : (s.withBlock q).iter = s.iter := rfl
@[simp] theorem State.withBlock_kdfWords (q : Quad) : (s.withBlock q).kdfWords = s.kdfWords := rfl
@[simp] theorem State.withBlock_rk (q : Quad) : (s.withBlock q).rk = s.rk := rfl
@[simp] theorem State.withBlock_irk (q : Quad) : (s.withBlock q).irk = s.irk := rfl
@[simp] theorem State.withBlock_scratch (q : Quad) : (s.withBlock q).scratch = s.scratch := rfl
@[simp] theorem State.withBlock_dmem (q : Quad) : (s.withBlock q).dmem = s.dmem := rfl
@[simp] theorem State.withBlock_rstLow (q : Quad) : (s.withBlock q).rstLow = s.rstLow := rfl
@[simp] theorem State.withBlock_draws (q : Quad) : (s.withBlock q).draws = s.draws := rfl
@[simp] theorem State.withBlock_dmemEpoch (q : Quad) : (s.withBlock q).dmemEpoch = s.dmemEpoch := rfl
@[simp] theorem State.withBlock_rdata (q : Quad) : (s.withBlock q).rdata = s.rdata := rfl
@[simp] theorem State.withBlock_inputs (q : Quad) : (s.withBlock q).inputs = s.inputs := rfl
@[simp] theorem State.withBlock_turns (q : Quad) : (s.withBlock q).turns = s.turns := rfl

@[simp] theorem State.withChain_cfg (q : Quad) : (s.withChain q).cfg = s.cfg := rfl
@[simp] theorem State.withChain_phase (q : Quad) : (s.withChain q).phase = s.phase := rfl
@[simp] theorem State.withChain_done (q : Quad) : (s.withChain q).done = s.done := rfl
@[simp] theorem State.withChain_err (q : Quad) : (s.withChain q).err = s.err := rfl
@[simp] theorem State.withChain_errCode (q : Quad) : (s.withChain q).errCode = s.errCode := rfl
@[simp] theorem State.withChain_keyValid (q : Quad) : (s.withChain q).keyValid = s.keyValid := rfl
@[simp] theorem State.withChain_nk (q : Quad) : (s.withChain q).nk = s.nk := rfl
@[simp] theorem State.withChain_nr (q : Quad) : (s.withChain q).nr = s.nr := rfl
@[simp] theorem State.withChain_ctrl (q : Quad) : (s.withChain q).ctrl = s.ctrl := rfl
@[simp] theorem State.withChain_irqStatus (q : Quad) : (s.withChain q).irqStatus = s.irqStatus := rfl
@[simp] theorem State.withChain_keyLen (q : Quad) : (s.withChain q).keyLen = s.keyLen := rfl
@[simp] theorem State.withChain_key (q : Quad) : (s.withChain q).key = s.key := rfl
@[simp] theorem State.withChain_chain (q : Quad) : (s.withChain q).chain = q := rfl
@[simp] theorem State.withChain_block (q : Quad) : (s.withChain q).block = s.block := rfl
@[simp] theorem State.withChain_hstate (q : Quad) : (s.withChain q).hstate = s.hstate := rfl
@[simp] theorem State.withChain_hlen (q : Quad) : (s.withChain q).hlen = s.hlen := rfl
@[simp] theorem State.withChain_resLen (q : Quad) : (s.withChain q).resLen = s.resLen := rfl
@[simp] theorem State.withChain_result (q : Quad) : (s.withChain q).result = s.result := rfl
@[simp] theorem State.withChain_srcAddr (q : Quad) : (s.withChain q).srcAddr = s.srcAddr := rfl
@[simp] theorem State.withChain_srcLen (q : Quad) : (s.withChain q).srcLen = s.srcLen := rfl
@[simp] theorem State.withChain_dstAddr (q : Quad) : (s.withChain q).dstAddr = s.dstAddr := rfl
@[simp] theorem State.withChain_auxAddr (q : Quad) : (s.withChain q).auxAddr = s.auxAddr := rfl
@[simp] theorem State.withChain_auxLen (q : Quad) : (s.withChain q).auxLen = s.auxLen := rfl
@[simp] theorem State.withChain_saltAddr (q : Quad) : (s.withChain q).saltAddr = s.saltAddr := rfl
@[simp] theorem State.withChain_saltLen (q : Quad) : (s.withChain q).saltLen = s.saltLen := rfl
@[simp] theorem State.withChain_iter (q : Quad) : (s.withChain q).iter = s.iter := rfl
@[simp] theorem State.withChain_kdfWords (q : Quad) : (s.withChain q).kdfWords = s.kdfWords := rfl
@[simp] theorem State.withChain_rk (q : Quad) : (s.withChain q).rk = s.rk := rfl
@[simp] theorem State.withChain_irk (q : Quad) : (s.withChain q).irk = s.irk := rfl
@[simp] theorem State.withChain_scratch (q : Quad) : (s.withChain q).scratch = s.scratch := rfl
@[simp] theorem State.withChain_dmem (q : Quad) : (s.withChain q).dmem = s.dmem := rfl
@[simp] theorem State.withChain_rstLow (q : Quad) : (s.withChain q).rstLow = s.rstLow := rfl
@[simp] theorem State.withChain_draws (q : Quad) : (s.withChain q).draws = s.draws := rfl
@[simp] theorem State.withChain_dmemEpoch (q : Quad) : (s.withChain q).dmemEpoch = s.dmemEpoch := rfl
@[simp] theorem State.withChain_rdata (q : Quad) : (s.withChain q).rdata = s.rdata := rfl
@[simp] theorem State.withChain_inputs (q : Quad) : (s.withChain q).inputs = s.inputs := rfl
@[simp] theorem State.withChain_turns (q : Quad) : (s.withChain q).turns = s.turns := rfl

@[simp] theorem State.withHash_cfg (h : Oct) (n : BitVec 64) : (s.withHash h n).cfg = s.cfg := rfl
@[simp] theorem State.withHash_phase (h : Oct) (n : BitVec 64) : (s.withHash h n).phase = s.phase := rfl
@[simp] theorem State.withHash_done (h : Oct) (n : BitVec 64) : (s.withHash h n).done = s.done := rfl
@[simp] theorem State.withHash_err (h : Oct) (n : BitVec 64) : (s.withHash h n).err = s.err := rfl
@[simp] theorem State.withHash_errCode (h : Oct) (n : BitVec 64) : (s.withHash h n).errCode = s.errCode := rfl
@[simp] theorem State.withHash_keyValid (h : Oct) (n : BitVec 64) : (s.withHash h n).keyValid = s.keyValid := rfl
@[simp] theorem State.withHash_nk (h : Oct) (n : BitVec 64) : (s.withHash h n).nk = s.nk := rfl
@[simp] theorem State.withHash_nr (h : Oct) (n : BitVec 64) : (s.withHash h n).nr = s.nr := rfl
@[simp] theorem State.withHash_ctrl (h : Oct) (n : BitVec 64) : (s.withHash h n).ctrl = s.ctrl := rfl
@[simp] theorem State.withHash_irqStatus (h : Oct) (n : BitVec 64) : (s.withHash h n).irqStatus = s.irqStatus := rfl
@[simp] theorem State.withHash_keyLen (h : Oct) (n : BitVec 64) : (s.withHash h n).keyLen = s.keyLen := rfl
@[simp] theorem State.withHash_key (h : Oct) (n : BitVec 64) : (s.withHash h n).key = s.key := rfl
@[simp] theorem State.withHash_chain (h : Oct) (n : BitVec 64) : (s.withHash h n).chain = s.chain := rfl
@[simp] theorem State.withHash_block (h : Oct) (n : BitVec 64) : (s.withHash h n).block = s.block := rfl
@[simp] theorem State.withHash_hstate (h : Oct) (n : BitVec 64) : (s.withHash h n).hstate = h := rfl
@[simp] theorem State.withHash_hlen (h : Oct) (n : BitVec 64) : (s.withHash h n).hlen = n := rfl
@[simp] theorem State.withHash_resLen (h : Oct) (n : BitVec 64) : (s.withHash h n).resLen = s.resLen := rfl
@[simp] theorem State.withHash_result (h : Oct) (n : BitVec 64) : (s.withHash h n).result = s.result := rfl
@[simp] theorem State.withHash_srcAddr (h : Oct) (n : BitVec 64) : (s.withHash h n).srcAddr = s.srcAddr := rfl
@[simp] theorem State.withHash_srcLen (h : Oct) (n : BitVec 64) : (s.withHash h n).srcLen = s.srcLen := rfl
@[simp] theorem State.withHash_dstAddr (h : Oct) (n : BitVec 64) : (s.withHash h n).dstAddr = s.dstAddr := rfl
@[simp] theorem State.withHash_auxAddr (h : Oct) (n : BitVec 64) : (s.withHash h n).auxAddr = s.auxAddr := rfl
@[simp] theorem State.withHash_auxLen (h : Oct) (n : BitVec 64) : (s.withHash h n).auxLen = s.auxLen := rfl
@[simp] theorem State.withHash_saltAddr (h : Oct) (n : BitVec 64) : (s.withHash h n).saltAddr = s.saltAddr := rfl
@[simp] theorem State.withHash_saltLen (h : Oct) (n : BitVec 64) : (s.withHash h n).saltLen = s.saltLen := rfl
@[simp] theorem State.withHash_iter (h : Oct) (n : BitVec 64) : (s.withHash h n).iter = s.iter := rfl
@[simp] theorem State.withHash_kdfWords (h : Oct) (n : BitVec 64) : (s.withHash h n).kdfWords = s.kdfWords := rfl
@[simp] theorem State.withHash_rk (h : Oct) (n : BitVec 64) : (s.withHash h n).rk = s.rk := rfl
@[simp] theorem State.withHash_irk (h : Oct) (n : BitVec 64) : (s.withHash h n).irk = s.irk := rfl
@[simp] theorem State.withHash_scratch (h : Oct) (n : BitVec 64) : (s.withHash h n).scratch = s.scratch := rfl
@[simp] theorem State.withHash_dmem (h : Oct) (n : BitVec 64) : (s.withHash h n).dmem = s.dmem := rfl
@[simp] theorem State.withHash_rstLow (h : Oct) (n : BitVec 64) : (s.withHash h n).rstLow = s.rstLow := rfl
@[simp] theorem State.withHash_draws (h : Oct) (n : BitVec 64) : (s.withHash h n).draws = s.draws := rfl
@[simp] theorem State.withHash_dmemEpoch (h : Oct) (n : BitVec 64) : (s.withHash h n).dmemEpoch = s.dmemEpoch := rfl
@[simp] theorem State.withHash_rdata (h : Oct) (n : BitVec 64) : (s.withHash h n).rdata = s.rdata := rfl
@[simp] theorem State.withHash_inputs (h : Oct) (n : BitVec 64) : (s.withHash h n).inputs = s.inputs := rfl
@[simp] theorem State.withHash_turns (h : Oct) (n : BitVec 64) : (s.withHash h n).turns = s.turns := rfl

@[simp] theorem State.keyFilled_cfg : (s.keyFilled).cfg = s.cfg := rfl
@[simp] theorem State.keyFilled_phase : (s.keyFilled).phase = s.phase := rfl
@[simp] theorem State.keyFilled_done : (s.keyFilled).done = s.done := rfl
@[simp] theorem State.keyFilled_err : (s.keyFilled).err = s.err := rfl
@[simp] theorem State.keyFilled_errCode : (s.keyFilled).errCode = s.errCode := rfl
@[simp] theorem State.keyFilled_keyValid : (s.keyFilled).keyValid = true := rfl
@[simp] theorem State.keyFilled_nk : (s.keyFilled).nk = BitVec.ofNat 4 (nkOf s.keyLen) := rfl
@[simp] theorem State.keyFilled_nr : (s.keyFilled).nr = BitVec.ofNat 4 (nkOf s.keyLen + 6) := rfl
@[simp] theorem State.keyFilled_ctrl : (s.keyFilled).ctrl = s.ctrl := rfl
@[simp] theorem State.keyFilled_irqStatus : (s.keyFilled).irqStatus = s.irqStatus := rfl
@[simp] theorem State.keyFilled_keyLen : (s.keyFilled).keyLen = s.keyLen := rfl
@[simp] theorem State.keyFilled_key : (s.keyFilled).key = s.key := rfl
@[simp] theorem State.keyFilled_chain : (s.keyFilled).chain = s.chain := rfl
@[simp] theorem State.keyFilled_block : (s.keyFilled).block = s.block := rfl
@[simp] theorem State.keyFilled_hstate : (s.keyFilled).hstate = s.hstate := rfl
@[simp] theorem State.keyFilled_hlen : (s.keyFilled).hlen = s.hlen := rfl
@[simp] theorem State.keyFilled_resLen : (s.keyFilled).resLen = s.resLen := rfl
@[simp] theorem State.keyFilled_result : (s.keyFilled).result = s.result := rfl
@[simp] theorem State.keyFilled_srcAddr : (s.keyFilled).srcAddr = s.srcAddr := rfl
@[simp] theorem State.keyFilled_srcLen : (s.keyFilled).srcLen = s.srcLen := rfl
@[simp] theorem State.keyFilled_dstAddr : (s.keyFilled).dstAddr = s.dstAddr := rfl
@[simp] theorem State.keyFilled_auxAddr : (s.keyFilled).auxAddr = s.auxAddr := rfl
@[simp] theorem State.keyFilled_auxLen : (s.keyFilled).auxLen = s.auxLen := rfl
@[simp] theorem State.keyFilled_saltAddr : (s.keyFilled).saltAddr = s.saltAddr := rfl
@[simp] theorem State.keyFilled_saltLen : (s.keyFilled).saltLen = s.saltLen := rfl
@[simp] theorem State.keyFilled_iter : (s.keyFilled).iter = s.iter := rfl
@[simp] theorem State.keyFilled_kdfWords : (s.keyFilled).kdfWords = s.kdfWords := rfl
@[simp] theorem State.keyFilled_rk : (s.keyFilled).rk = ramOf (forwardOf s.keyLen s.key) := rfl
@[simp] theorem State.keyFilled_irk : (s.keyFilled).irk = ramOf (inverseOf s.keyLen s.key) := rfl
@[simp] theorem State.keyFilled_scratch : (s.keyFilled).scratch = s.scratch := rfl
@[simp] theorem State.keyFilled_dmem : (s.keyFilled).dmem = s.dmem := rfl
@[simp] theorem State.keyFilled_rstLow : (s.keyFilled).rstLow = s.rstLow := rfl
@[simp] theorem State.keyFilled_draws : (s.keyFilled).draws = s.draws := rfl
@[simp] theorem State.keyFilled_dmemEpoch : (s.keyFilled).dmemEpoch = s.dmemEpoch := rfl
@[simp] theorem State.keyFilled_rdata : (s.keyFilled).rdata = s.rdata := rfl
@[simp] theorem State.keyFilled_inputs : (s.keyFilled).inputs = s.inputs := rfl
@[simp] theorem State.keyFilled_turns : (s.keyFilled).turns = s.turns := rfl

@[simp] theorem State.keyCleared_cfg : (s.keyCleared).cfg = s.cfg := rfl
@[simp] theorem State.keyCleared_phase : (s.keyCleared).phase = s.phase := rfl
@[simp] theorem State.keyCleared_done : (s.keyCleared).done = s.done := rfl
@[simp] theorem State.keyCleared_err : (s.keyCleared).err = s.err := rfl
@[simp] theorem State.keyCleared_errCode : (s.keyCleared).errCode = s.errCode := rfl
@[simp] theorem State.keyCleared_keyValid : (s.keyCleared).keyValid = false := rfl
@[simp] theorem State.keyCleared_nk : (s.keyCleared).nk = 0 := rfl
@[simp] theorem State.keyCleared_nr : (s.keyCleared).nr = 0 := rfl
@[simp] theorem State.keyCleared_ctrl : (s.keyCleared).ctrl = s.ctrl := rfl
@[simp] theorem State.keyCleared_irqStatus : (s.keyCleared).irqStatus = s.irqStatus := rfl
@[simp] theorem State.keyCleared_keyLen : (s.keyCleared).keyLen = 0 := rfl
@[simp] theorem State.keyCleared_key : (s.keyCleared).key = Oct.zero := rfl
@[simp] theorem State.keyCleared_chain : (s.keyCleared).chain = s.chain := rfl
@[simp] theorem State.keyCleared_block : (s.keyCleared).block = s.block := rfl
@[simp] theorem State.keyCleared_hstate : (s.keyCleared).hstate = s.hstate := rfl
@[simp] theorem State.keyCleared_hlen : (s.keyCleared).hlen = s.hlen := rfl
@[simp] theorem State.keyCleared_resLen : (s.keyCleared).resLen = s.resLen := rfl
@[simp] theorem State.keyCleared_result : (s.keyCleared).result = s.result := rfl
@[simp] theorem State.keyCleared_srcAddr : (s.keyCleared).srcAddr = s.srcAddr := rfl
@[simp] theorem State.keyCleared_srcLen : (s.keyCleared).srcLen = s.srcLen := rfl
@[simp] theorem State.keyCleared_dstAddr : (s.keyCleared).dstAddr = s.dstAddr := rfl
@[simp] theorem State.keyCleared_auxAddr : (s.keyCleared).auxAddr = s.auxAddr := rfl
@[simp] theorem State.keyCleared_auxLen : (s.keyCleared).auxLen = s.auxLen := rfl
@[simp] theorem State.keyCleared_saltAddr : (s.keyCleared).saltAddr = s.saltAddr := rfl
@[simp] theorem State.keyCleared_saltLen : (s.keyCleared).saltLen = s.saltLen := rfl
@[simp] theorem State.keyCleared_iter : (s.keyCleared).iter = s.iter := rfl
@[simp] theorem State.keyCleared_kdfWords : (s.keyCleared).kdfWords = s.kdfWords := rfl
@[simp] theorem State.keyCleared_rk : (s.keyCleared).rk = ramOf [] := rfl
@[simp] theorem State.keyCleared_irk : (s.keyCleared).irk = ramOf [] := rfl
@[simp] theorem State.keyCleared_scratch : (s.keyCleared).scratch = s.scratch := rfl
@[simp] theorem State.keyCleared_dmem : (s.keyCleared).dmem = s.dmem := rfl
@[simp] theorem State.keyCleared_rstLow : (s.keyCleared).rstLow = s.rstLow := rfl
@[simp] theorem State.keyCleared_draws : (s.keyCleared).draws = s.draws := rfl
@[simp] theorem State.keyCleared_dmemEpoch : (s.keyCleared).dmemEpoch = s.dmemEpoch := rfl
@[simp] theorem State.keyCleared_rdata : (s.keyCleared).rdata = s.rdata := rfl
@[simp] theorem State.keyCleared_inputs : (s.keyCleared).inputs = s.inputs := rfl
@[simp] theorem State.keyCleared_turns : (s.keyCleared).turns = s.turns := rfl

@[simp] theorem State.keyInvalidated_cfg : (s.keyInvalidated).cfg = s.cfg := rfl
@[simp] theorem State.keyInvalidated_phase : (s.keyInvalidated).phase = s.phase := rfl
@[simp] theorem State.keyInvalidated_done : (s.keyInvalidated).done = s.done := rfl
@[simp] theorem State.keyInvalidated_err : (s.keyInvalidated).err = s.err := rfl
@[simp] theorem State.keyInvalidated_errCode : (s.keyInvalidated).errCode = s.errCode := rfl
@[simp] theorem State.keyInvalidated_keyValid : (s.keyInvalidated).keyValid = false := rfl
@[simp] theorem State.keyInvalidated_nk : (s.keyInvalidated).nk = 0 := rfl
@[simp] theorem State.keyInvalidated_nr : (s.keyInvalidated).nr = 0 := rfl
@[simp] theorem State.keyInvalidated_ctrl : (s.keyInvalidated).ctrl = s.ctrl := rfl
@[simp] theorem State.keyInvalidated_irqStatus : (s.keyInvalidated).irqStatus = s.irqStatus := rfl
@[simp] theorem State.keyInvalidated_keyLen : (s.keyInvalidated).keyLen = s.keyLen := rfl
@[simp] theorem State.keyInvalidated_key : (s.keyInvalidated).key = s.key := rfl
@[simp] theorem State.keyInvalidated_chain : (s.keyInvalidated).chain = s.chain := rfl
@[simp] theorem State.keyInvalidated_block : (s.keyInvalidated).block = s.block := rfl
@[simp] theorem State.keyInvalidated_hstate : (s.keyInvalidated).hstate = s.hstate := rfl
@[simp] theorem State.keyInvalidated_hlen : (s.keyInvalidated).hlen = s.hlen := rfl
@[simp] theorem State.keyInvalidated_resLen : (s.keyInvalidated).resLen = s.resLen := rfl
@[simp] theorem State.keyInvalidated_result : (s.keyInvalidated).result = s.result := rfl
@[simp] theorem State.keyInvalidated_srcAddr : (s.keyInvalidated).srcAddr = s.srcAddr := rfl
@[simp] theorem State.keyInvalidated_srcLen : (s.keyInvalidated).srcLen = s.srcLen := rfl
@[simp] theorem State.keyInvalidated_dstAddr : (s.keyInvalidated).dstAddr = s.dstAddr := rfl
@[simp] theorem State.keyInvalidated_auxAddr : (s.keyInvalidated).auxAddr = s.auxAddr := rfl
@[simp] theorem State.keyInvalidated_auxLen : (s.keyInvalidated).auxLen = s.auxLen := rfl
@[simp] theorem State.keyInvalidated_saltAddr : (s.keyInvalidated).saltAddr = s.saltAddr := rfl
@[simp] theorem State.keyInvalidated_saltLen : (s.keyInvalidated).saltLen = s.saltLen := rfl
@[simp] theorem State.keyInvalidated_iter : (s.keyInvalidated).iter = s.iter := rfl
@[simp] theorem State.keyInvalidated_kdfWords : (s.keyInvalidated).kdfWords = s.kdfWords := rfl
@[simp] theorem State.keyInvalidated_rk : (s.keyInvalidated).rk = s.rk := rfl
@[simp] theorem State.keyInvalidated_irk : (s.keyInvalidated).irk = s.irk := rfl
@[simp] theorem State.keyInvalidated_scratch : (s.keyInvalidated).scratch = s.scratch := rfl
@[simp] theorem State.keyInvalidated_dmem : (s.keyInvalidated).dmem = s.dmem := rfl
@[simp] theorem State.keyInvalidated_rstLow : (s.keyInvalidated).rstLow = s.rstLow := rfl
@[simp] theorem State.keyInvalidated_draws : (s.keyInvalidated).draws = s.draws := rfl
@[simp] theorem State.keyInvalidated_dmemEpoch : (s.keyInvalidated).dmemEpoch = s.dmemEpoch := rfl
@[simp] theorem State.keyInvalidated_rdata : (s.keyInvalidated).rdata = s.rdata := rfl
@[simp] theorem State.keyInvalidated_inputs : (s.keyInvalidated).inputs = s.inputs := rfl
@[simp] theorem State.keyInvalidated_turns : (s.keyInvalidated).turns = s.turns := rfl

@[simp] theorem State.issueWith_cfg (c : Word) (left : Nat) : (s.issueWith c left).cfg = s.cfg := rfl
@[simp] theorem State.issueWith_phase (c : Word) (left : Nat) : (s.issueWith c left).phase = .run c left := rfl
@[simp] theorem State.issueWith_done (c : Word) (left : Nat) : (s.issueWith c left).done = false := rfl
@[simp] theorem State.issueWith_err (c : Word) (left : Nat) : (s.issueWith c left).err = false := rfl
@[simp] theorem State.issueWith_errCode (c : Word) (left : Nat) : (s.issueWith c left).errCode = 0 := rfl
@[simp] theorem State.issueWith_keyValid (c : Word) (left : Nat) : (s.issueWith c left).keyValid = s.keyValid := rfl
@[simp] theorem State.issueWith_nk (c : Word) (left : Nat) : (s.issueWith c left).nk = s.nk := rfl
@[simp] theorem State.issueWith_nr (c : Word) (left : Nat) : (s.issueWith c left).nr = s.nr := rfl
@[simp] theorem State.issueWith_ctrl (c : Word) (left : Nat) : (s.issueWith c left).ctrl = s.ctrl := rfl
@[simp] theorem State.issueWith_irqStatus (c : Word) (left : Nat) : (s.issueWith c left).irqStatus = s.irqStatus := rfl
@[simp] theorem State.issueWith_keyLen (c : Word) (left : Nat) : (s.issueWith c left).keyLen = s.keyLen := rfl
@[simp] theorem State.issueWith_key (c : Word) (left : Nat) : (s.issueWith c left).key = s.key := rfl
@[simp] theorem State.issueWith_chain (c : Word) (left : Nat) : (s.issueWith c left).chain = s.chain := rfl
@[simp] theorem State.issueWith_block (c : Word) (left : Nat) : (s.issueWith c left).block = s.block := rfl
@[simp] theorem State.issueWith_hstate (c : Word) (left : Nat) : (s.issueWith c left).hstate = s.hstate := rfl
@[simp] theorem State.issueWith_hlen (c : Word) (left : Nat) : (s.issueWith c left).hlen = s.hlen := rfl
@[simp] theorem State.issueWith_resLen (c : Word) (left : Nat) : (s.issueWith c left).resLen = s.resLen := rfl
@[simp] theorem State.issueWith_result (c : Word) (left : Nat) : (s.issueWith c left).result = s.result := rfl
@[simp] theorem State.issueWith_srcAddr (c : Word) (left : Nat) : (s.issueWith c left).srcAddr = s.srcAddr := rfl
@[simp] theorem State.issueWith_srcLen (c : Word) (left : Nat) : (s.issueWith c left).srcLen = s.srcLen := rfl
@[simp] theorem State.issueWith_dstAddr (c : Word) (left : Nat) : (s.issueWith c left).dstAddr = s.dstAddr := rfl
@[simp] theorem State.issueWith_auxAddr (c : Word) (left : Nat) : (s.issueWith c left).auxAddr = s.auxAddr := rfl
@[simp] theorem State.issueWith_auxLen (c : Word) (left : Nat) : (s.issueWith c left).auxLen = s.auxLen := rfl
@[simp] theorem State.issueWith_saltAddr (c : Word) (left : Nat) : (s.issueWith c left).saltAddr = s.saltAddr := rfl
@[simp] theorem State.issueWith_saltLen (c : Word) (left : Nat) : (s.issueWith c left).saltLen = s.saltLen := rfl
@[simp] theorem State.issueWith_iter (c : Word) (left : Nat) : (s.issueWith c left).iter = s.iter := rfl
@[simp] theorem State.issueWith_kdfWords (c : Word) (left : Nat) : (s.issueWith c left).kdfWords = s.kdfWords := rfl
@[simp] theorem State.issueWith_rk (c : Word) (left : Nat) : (s.issueWith c left).rk = s.rk := rfl
@[simp] theorem State.issueWith_irk (c : Word) (left : Nat) : (s.issueWith c left).irk = s.irk := rfl
@[simp] theorem State.issueWith_scratch (c : Word) (left : Nat) : (s.issueWith c left).scratch = s.scratch := rfl
@[simp] theorem State.issueWith_dmem (c : Word) (left : Nat) : (s.issueWith c left).dmem = s.dmem := rfl
@[simp] theorem State.issueWith_rstLow (c : Word) (left : Nat) : (s.issueWith c left).rstLow = s.rstLow := rfl
@[simp] theorem State.issueWith_draws (c : Word) (left : Nat) : (s.issueWith c left).draws = s.draws := rfl
@[simp] theorem State.issueWith_dmemEpoch (c : Word) (left : Nat) : (s.issueWith c left).dmemEpoch = s.dmemEpoch := rfl
@[simp] theorem State.issueWith_rdata (c : Word) (left : Nat) : (s.issueWith c left).rdata = s.rdata := rfl
@[simp] theorem State.issueWith_inputs (c : Word) (left : Nat) : (s.issueWith c left).inputs = s.inputs := rfl
@[simp] theorem State.issueWith_turns (c : Word) (left : Nat) : (s.issueWith c left).turns = s.turns := rfl

@[simp] theorem State.answer_cfg (v : Word) : (s.answer v).cfg = s.cfg := rfl
@[simp] theorem State.answer_phase (v : Word) : (s.answer v).phase = s.phase := rfl
@[simp] theorem State.answer_done (v : Word) : (s.answer v).done = s.done := rfl
@[simp] theorem State.answer_err (v : Word) : (s.answer v).err = s.err := rfl
@[simp] theorem State.answer_errCode (v : Word) : (s.answer v).errCode = s.errCode := rfl
@[simp] theorem State.answer_keyValid (v : Word) : (s.answer v).keyValid = s.keyValid := rfl
@[simp] theorem State.answer_nk (v : Word) : (s.answer v).nk = s.nk := rfl
@[simp] theorem State.answer_nr (v : Word) : (s.answer v).nr = s.nr := rfl
@[simp] theorem State.answer_ctrl (v : Word) : (s.answer v).ctrl = s.ctrl := rfl
@[simp] theorem State.answer_irqStatus (v : Word) : (s.answer v).irqStatus = s.irqStatus := rfl
@[simp] theorem State.answer_keyLen (v : Word) : (s.answer v).keyLen = s.keyLen := rfl
@[simp] theorem State.answer_key (v : Word) : (s.answer v).key = s.key := rfl
@[simp] theorem State.answer_chain (v : Word) : (s.answer v).chain = s.chain := rfl
@[simp] theorem State.answer_block (v : Word) : (s.answer v).block = s.block := rfl
@[simp] theorem State.answer_hstate (v : Word) : (s.answer v).hstate = s.hstate := rfl
@[simp] theorem State.answer_hlen (v : Word) : (s.answer v).hlen = s.hlen := rfl
@[simp] theorem State.answer_resLen (v : Word) : (s.answer v).resLen = s.resLen := rfl
@[simp] theorem State.answer_result (v : Word) : (s.answer v).result = s.result := rfl
@[simp] theorem State.answer_srcAddr (v : Word) : (s.answer v).srcAddr = s.srcAddr := rfl
@[simp] theorem State.answer_srcLen (v : Word) : (s.answer v).srcLen = s.srcLen := rfl
@[simp] theorem State.answer_dstAddr (v : Word) : (s.answer v).dstAddr = s.dstAddr := rfl
@[simp] theorem State.answer_auxAddr (v : Word) : (s.answer v).auxAddr = s.auxAddr := rfl
@[simp] theorem State.answer_auxLen (v : Word) : (s.answer v).auxLen = s.auxLen := rfl
@[simp] theorem State.answer_saltAddr (v : Word) : (s.answer v).saltAddr = s.saltAddr := rfl
@[simp] theorem State.answer_saltLen (v : Word) : (s.answer v).saltLen = s.saltLen := rfl
@[simp] theorem State.answer_iter (v : Word) : (s.answer v).iter = s.iter := rfl
@[simp] theorem State.answer_kdfWords (v : Word) : (s.answer v).kdfWords = s.kdfWords := rfl
@[simp] theorem State.answer_rk (v : Word) : (s.answer v).rk = s.rk := rfl
@[simp] theorem State.answer_irk (v : Word) : (s.answer v).irk = s.irk := rfl
@[simp] theorem State.answer_scratch (v : Word) : (s.answer v).scratch = s.scratch := rfl
@[simp] theorem State.answer_dmem (v : Word) : (s.answer v).dmem = s.dmem := rfl
@[simp] theorem State.answer_rstLow (v : Word) : (s.answer v).rstLow = s.rstLow := rfl
@[simp] theorem State.answer_draws (v : Word) : (s.answer v).draws = s.draws := rfl
@[simp] theorem State.answer_dmemEpoch (v : Word) : (s.answer v).dmemEpoch = s.dmemEpoch := rfl
@[simp] theorem State.answer_rdata (v : Word) : (s.answer v).rdata = v := rfl
@[simp] theorem State.answer_inputs (v : Word) : (s.answer v).inputs = s.inputs := rfl
@[simp] theorem State.answer_turns (v : Word) : (s.answer v).turns = s.turns := rfl

@[simp] theorem State.registersReset_cfg : s.registersReset.cfg = s.cfg := rfl
@[simp] theorem State.registersReset_phase : s.registersReset.phase = State.reset.phase := rfl
@[simp] theorem State.registersReset_done : s.registersReset.done = State.reset.done := rfl
@[simp] theorem State.registersReset_err : s.registersReset.err = State.reset.err := rfl
@[simp] theorem State.registersReset_errCode : s.registersReset.errCode = State.reset.errCode := rfl
@[simp] theorem State.registersReset_keyValid : s.registersReset.keyValid = State.reset.keyValid := rfl
@[simp] theorem State.registersReset_nk : s.registersReset.nk = State.reset.nk := rfl
@[simp] theorem State.registersReset_nr : s.registersReset.nr = State.reset.nr := rfl
@[simp] theorem State.registersReset_ctrl : s.registersReset.ctrl = State.reset.ctrl := rfl
@[simp] theorem State.registersReset_irqStatus : s.registersReset.irqStatus = State.reset.irqStatus := rfl
@[simp] theorem State.registersReset_keyLen : s.registersReset.keyLen = State.reset.keyLen := rfl
@[simp] theorem State.registersReset_key : s.registersReset.key = State.reset.key := rfl
@[simp] theorem State.registersReset_chain : s.registersReset.chain = State.reset.chain := rfl
@[simp] theorem State.registersReset_block : s.registersReset.block = State.reset.block := rfl
@[simp] theorem State.registersReset_hstate : s.registersReset.hstate = State.reset.hstate := rfl
@[simp] theorem State.registersReset_hlen : s.registersReset.hlen = State.reset.hlen := rfl
@[simp] theorem State.registersReset_resLen : s.registersReset.resLen = State.reset.resLen := rfl
@[simp] theorem State.registersReset_result : s.registersReset.result = State.reset.result := rfl
@[simp] theorem State.registersReset_srcAddr : s.registersReset.srcAddr = State.reset.srcAddr := rfl
@[simp] theorem State.registersReset_srcLen : s.registersReset.srcLen = State.reset.srcLen := rfl
@[simp] theorem State.registersReset_dstAddr : s.registersReset.dstAddr = State.reset.dstAddr := rfl
@[simp] theorem State.registersReset_auxAddr : s.registersReset.auxAddr = State.reset.auxAddr := rfl
@[simp] theorem State.registersReset_auxLen : s.registersReset.auxLen = State.reset.auxLen := rfl
@[simp] theorem State.registersReset_saltAddr : s.registersReset.saltAddr = State.reset.saltAddr := rfl
@[simp] theorem State.registersReset_saltLen : s.registersReset.saltLen = State.reset.saltLen := rfl
@[simp] theorem State.registersReset_iter : s.registersReset.iter = State.reset.iter := rfl
@[simp] theorem State.registersReset_kdfWords : s.registersReset.kdfWords = State.reset.kdfWords := rfl
@[simp] theorem State.registersReset_rk : s.registersReset.rk = State.reset.rk := rfl
@[simp] theorem State.registersReset_irk : s.registersReset.irk = State.reset.irk := rfl
@[simp] theorem State.registersReset_scratch : s.registersReset.scratch = State.reset.scratch := rfl
@[simp] theorem State.registersReset_dmem : s.registersReset.dmem = s.dmem := rfl
@[simp] theorem State.registersReset_rstLow : s.registersReset.rstLow = s.rstLow := rfl
@[simp] theorem State.registersReset_draws : s.registersReset.draws = s.draws := rfl
@[simp] theorem State.registersReset_dmemEpoch : s.registersReset.dmemEpoch = s.dmemEpoch := rfl
@[simp] theorem State.registersReset_rdata : s.registersReset.rdata = s.rdata := rfl
@[simp] theorem State.registersReset_inputs : s.registersReset.inputs = s.inputs := rfl
@[simp] theorem State.registersReset_turns : s.registersReset.turns = s.turns := rfl

@[simp] theorem State.withEveryByte_cfg : s.withEveryByte.cfg = { s.cfg with dmemUninit := .arbitrary } := rfl
@[simp] theorem State.withEveryByte_phase : s.withEveryByte.phase = s.phase := rfl
@[simp] theorem State.withEveryByte_done : s.withEveryByte.done = s.done := rfl
@[simp] theorem State.withEveryByte_err : s.withEveryByte.err = s.err := rfl
@[simp] theorem State.withEveryByte_errCode : s.withEveryByte.errCode = s.errCode := rfl
@[simp] theorem State.withEveryByte_keyValid : s.withEveryByte.keyValid = s.keyValid := rfl
@[simp] theorem State.withEveryByte_nk : s.withEveryByte.nk = s.nk := rfl
@[simp] theorem State.withEveryByte_nr : s.withEveryByte.nr = s.nr := rfl
@[simp] theorem State.withEveryByte_ctrl : s.withEveryByte.ctrl = s.ctrl := rfl
@[simp] theorem State.withEveryByte_irqStatus : s.withEveryByte.irqStatus = s.irqStatus := rfl
@[simp] theorem State.withEveryByte_keyLen : s.withEveryByte.keyLen = s.keyLen := rfl
@[simp] theorem State.withEveryByte_key : s.withEveryByte.key = s.key := rfl
@[simp] theorem State.withEveryByte_chain : s.withEveryByte.chain = s.chain := rfl
@[simp] theorem State.withEveryByte_block : s.withEveryByte.block = s.block := rfl
@[simp] theorem State.withEveryByte_hstate : s.withEveryByte.hstate = s.hstate := rfl
@[simp] theorem State.withEveryByte_hlen : s.withEveryByte.hlen = s.hlen := rfl
@[simp] theorem State.withEveryByte_resLen : s.withEveryByte.resLen = s.resLen := rfl
@[simp] theorem State.withEveryByte_result : s.withEveryByte.result = s.result := rfl
@[simp] theorem State.withEveryByte_srcAddr : s.withEveryByte.srcAddr = s.srcAddr := rfl
@[simp] theorem State.withEveryByte_srcLen : s.withEveryByte.srcLen = s.srcLen := rfl
@[simp] theorem State.withEveryByte_dstAddr : s.withEveryByte.dstAddr = s.dstAddr := rfl
@[simp] theorem State.withEveryByte_auxAddr : s.withEveryByte.auxAddr = s.auxAddr := rfl
@[simp] theorem State.withEveryByte_auxLen : s.withEveryByte.auxLen = s.auxLen := rfl
@[simp] theorem State.withEveryByte_saltAddr : s.withEveryByte.saltAddr = s.saltAddr := rfl
@[simp] theorem State.withEveryByte_saltLen : s.withEveryByte.saltLen = s.saltLen := rfl
@[simp] theorem State.withEveryByte_iter : s.withEveryByte.iter = s.iter := rfl
@[simp] theorem State.withEveryByte_kdfWords : s.withEveryByte.kdfWords = s.kdfWords := rfl
@[simp] theorem State.withEveryByte_rk : s.withEveryByte.rk = s.rk := rfl
@[simp] theorem State.withEveryByte_irk : s.withEveryByte.irk = s.irk := rfl
@[simp] theorem State.withEveryByte_scratch : s.withEveryByte.scratch = s.scratch := rfl
@[simp] theorem State.withEveryByte_dmem : s.withEveryByte.dmem = s.dmem := rfl
@[simp] theorem State.withEveryByte_rstLow : s.withEveryByte.rstLow = s.rstLow := rfl
@[simp] theorem State.withEveryByte_draws : s.withEveryByte.draws = s.draws := rfl
@[simp] theorem State.withEveryByte_dmemEpoch : s.withEveryByte.dmemEpoch = s.dmemEpoch := rfl
@[simp] theorem State.withEveryByte_rdata : s.withEveryByte.rdata = s.rdata := rfl
@[simp] theorem State.withEveryByte_inputs : s.withEveryByte.inputs = s.inputs := rfl
@[simp] theorem State.withEveryByte_turns : s.withEveryByte.turns = s.turns := rfl

end Sys2Proof.Machine
end

