-- ==== Sys2Proof/Laws/Memory.lean ====
section
/-! SUPPORT. The laws of memory: read after write, the canonical form, and what a region read or write does (20_memory.md R203,
R209). -/

namespace Sys2Proof.Machine

theorem Memory.read_write (m : List Host.Cell) (a b : Nat) (v : Byte) :
    Memory.read (Memory.write m a v) b = if b = a then some v else Memory.read m b := by
  induction m with
  | nil => simp [Memory.write, Memory.read]
  | cons c m ih =>
    obtain ⟨k, w⟩ := c
    simp only [Memory.write]
    split
    · simp [Memory.read]
    · split
      · rename_i h; subst h; simp only [Memory.read]; split <;> rfl
      · simp only [Memory.read, ih]
        split_ifs <;> first | rfl | omega

@[simp] theorem Memory.read_write_same (m : List Host.Cell) (a : Nat) (v : Byte) :
    Memory.read (Memory.write m a v) a = some v := by simp [Memory.read_write]

theorem Memory.read_write_other (m : List Host.Cell) {a b : Nat} (v : Byte) (h : b ≠ a) :
    Memory.read (Memory.write m a v) b = Memory.read m b := by simp [Memory.read_write, h]

/-- What a byte string written from `a` on reads as, and what every other offset reads as. -/
theorem Memory.read_writeBytes (vs : List Byte) : ∀ (m : List Host.Cell) (a b : Nat),
    Memory.read (Memory.writeBytes m a vs) b =
      if a ≤ b ∧ b < a + vs.length then vs[b - a]? else Memory.read m b := by
  induction vs with
  | nil =>
    intro m a b
    have h : ¬ (a ≤ b ∧ b < a + ([] : List Byte).length) := by simp
    rw [if_neg h]; rfl
  | cons v vs ih =>
    intro m a b
    simp only [Memory.writeBytes, ih, Memory.read_write, List.length_cons]
    by_cases h : b = a
    · subst h; simp
    · by_cases h1 : a ≤ b ∧ b < a + (vs.length + 1)
      · have h2 : a + 1 ≤ b ∧ b < a + 1 + vs.length := by omega
        have h3 : b - a = (b - (a + 1)) + 1 := by omega
        simp [h1, h2, h3]
      · have h2 : ¬ (a + 1 ≤ b ∧ b < a + 1 + vs.length) := by omega
        rw [if_neg h1, if_neg h2, if_neg h]

/-- Every offset a write lists was listed before or is the one written. -/
theorem Memory.mem_write {m : List Host.Cell} {a : Nat} {v : Byte} {c : Host.Cell}
    (h : c ∈ Memory.write m a v) : c = (a, v) ∨ c ∈ m := by
  induction m with
  | nil => simpa [Memory.write] using h
  | cons d m ih =>
    obtain ⟨k, w⟩ := d
    simp only [Memory.write] at h
    split at h
    · simpa using h
    · split at h
      · rcases List.mem_cons.1 h with h | h <;> simp [h]
      · rcases List.mem_cons.1 h with h | h
        · simp [h]
        · rcases ih h with h | h <;> simp [h]

theorem Memory.write_wf {m : List Host.Cell} (h : Memory.wf m) (a : Nat) (v : Byte) : Memory.wf (Memory.write m a v) := by
  induction m with
  | nil => simp [Memory.write]
  | cons d m ih =>
    obtain ⟨k, w⟩ := d
    have hk := (List.pairwise_cons.1 h).1
    have hm := (List.pairwise_cons.1 h).2
    simp only [Memory.write]
    split
    · rename_i hlt
      refine List.pairwise_cons.2 ⟨fun c hc => ?_, h⟩
      rcases List.mem_cons.1 hc with rfl | hc
      · exact hlt
      · exact lt_trans hlt (hk c hc)
    · split
      · rename_i heq
        subst heq
        exact List.pairwise_cons.2 ⟨fun c hc => hk c hc, hm⟩
      · refine List.pairwise_cons.2 ⟨fun c hc => ?_, ih hm⟩
        rcases Memory.mem_write hc with rfl | hc
        · show k < a; omega
        · exact hk c hc

theorem Memory.writeBytes_wf (vs : List Byte) : ∀ {m : List Host.Cell}, Memory.wf m → ∀ a, Memory.wf (Memory.writeBytes m a vs) := by
  induction vs with
  | nil => intro m h a; exact h
  | cons v vs ih => intro m h a; exact ih (Memory.write_wf h a v) (a + 1)

/-- A written byte string lists no offset that was not listed, but those it covers. -/
theorem Memory.mem_writeBytes (vs : List Byte) : ∀ {m : List Host.Cell} {a : Nat} {c : Host.Cell},
    c ∈ Memory.writeBytes m a vs → (a ≤ c.1 ∧ c.1 < a + vs.length) ∨ c ∈ m := by
  induction vs with
  | nil => intro m a c h; exact .inr h
  | cons v vs ih =>
    intro m a c h
    rcases ih h with h | h
    · left; simp only [List.length_cons]; omega
    · rcases Memory.mem_write h with rfl | h
      · left; simp
      · exact .inr h

theorem freeBytes_length (n d : Nat) : (freeBytes d n).length = n := by
  induction n generalizing d with
  | zero => rfl
  | succ n ih => simp [freeBytes, ih]

theorem freeBytes_get (n d k : Nat) (h : k < n) : (freeBytes d n)[k]? = some (Config.freeByte (d + k)) := by
  induction n generalizing d k with
  | zero => omega
  | succ n ih =>
    cases k with
    | zero => simp [freeBytes]
    | succ k => simp [freeBytes, ih (d + 1) k (by omega), Nat.add_comm, Nat.add_left_comm]

/-- What every DMEM byte is after a byte string is written (R209). -/
theorem State.dmemByte_memWrite (s : State) (a : Nat) (vs : List Byte) (b : Nat) :
    (s.memWrite a vs).dmemByte b = if a ≤ b ∧ b < a + vs.length then vs[b - a]? else s.dmemByte b := by
  simp only [State.dmemByte, State.memWrite_dmem, Memory.read_writeBytes, State.memWrite_cfg, State.memWrite_dmemEpoch]
  by_cases h : a ≤ b ∧ b < a + vs.length
  · have : b - a < vs.length := by omega
    simp [h, List.getElem?_eq_getElem this]
  · simp only [if_neg h]

/-- A DMEM byte depends on the parameters, the epoch and DMEM alone. -/
theorem State.dmemByte_congr {s t : State} (hc : t.cfg = s.cfg) (he : t.dmemEpoch = s.dmemEpoch) (hd : t.dmem = s.dmem)
    (a : Nat) : t.dmemByte a = s.dmemByte a := by
  simp [State.dmemByte, hc, he, hd]

/-- A region read is its bytes, in order; it fails exactly where one of them has no value (R203, R211). -/
theorem State.memRead_ok (s : State) (n : Nat) : ∀ (a : Nat) (vs : List Byte),
    s.memRead a n = .ok vs ↔ vs.length = n ∧ ∀ k, k < n → s.dmemByte (a + k) = vs[k]? := by
  induction n with
  | zero =>
    intro a vs
    simp only [State.memRead, Except.ok.injEq]
    constructor
    · rintro rfl; simp
    · intro h; exact (List.length_eq_zero_iff.1 h.1).symm
  | succ n ih =>
    intro a vs
    simp only [State.memRead]
    cases hb : s.dmemByte a with
    | none =>
      simp only [reduceCtorEq, false_iff]
      rintro ⟨hl, h⟩
      have := h 0 (by omega)
      rw [Nat.add_zero, hb, List.getElem?_eq_getElem (by omega)] at this
      cases this
    | some v =>
      have key : ∀ ws : List Byte, (v :: ws).length = n + 1 ∧ (∀ k, k < n + 1 → s.dmemByte (a + k) = (v :: ws)[k]?) ↔
          ws.length = n ∧ ∀ k, k < n → s.dmemByte (a + 1 + k) = ws[k]? := by
        intro ws
        simp only [List.length_cons, Nat.add_right_cancel_iff]
        refine and_congr_right fun _ => ⟨fun h k hk => ?_, fun h k hk => ?_⟩
        · have := h (k + 1) (by omega)
          simpa [Nat.add_assoc, Nat.add_comm 1 k] using this
        · cases k with
          | zero => simpa using hb
          | succ k => simpa [Nat.add_assoc, Nat.add_comm 1 k] using h k (by omega)
      constructor
      · intro h
        cases hr : s.memRead (a + 1) n with
        | error f => rw [hr] at h; cases h
        | ok ws =>
          rw [hr] at h
          cases h
          exact (key ws).2 ((ih _ _).1 hr)
      · rintro ⟨hl, h⟩
        cases vs with
        | nil => simp at hl
        | cons w ws =>
          have hw : w = v := by
            have := h 0 (by omega)
            simpa [hb] using this.symm
          subst hw
          rw [(ih (a + 1) ws).2 ((key ws).1 ⟨hl, h⟩)]

theorem State.memRead_length {s : State} {a n : Nat} {vs : List Byte} (h : s.memRead a n = .ok vs) : vs.length = n :=
  ((s.memRead_ok n a vs).1 h).1

/-- A region whose every byte has a value can be read. -/
theorem State.memRead_total (s : State) (n : Nat) : ∀ a, (∀ k, k < n → s.dmemByte (a + k) ≠ none) →
    ∃ vs, s.memRead a n = .ok vs := by
  induction n with
  | zero => intro a _; exact ⟨[], rfl⟩
  | succ n ih =>
    intro a h
    obtain ⟨ws, hw⟩ := ih (a + 1) (fun k hk => by have := h (k + 1) (by omega); rwa [Nat.add_comm k 1, ← Nat.add_assoc] at this)
    have h0 := h 0 (by omega)
    rw [Nat.add_zero] at h0
    obtain ⟨v, hv⟩ := Option.ne_none_iff_exists'.1 h0
    exact ⟨v :: ws, by simp [State.memRead, hv, hw]⟩

end Sys2Proof.Machine
end

