-- ==== Sys2Proof/Laws/Ops.lean ====
section
/-! SUPPORT. One lemma for each shared operation: everything it can do when it answers a next state. -/

namespace Sys2Proof.Machine

variable {s t u : State}

theorem withRegion_next {a n : Nat} {k : Result} :
    withRegion s a n k = .next t ↔
      (s.regionOk a n = true ∧ k = .next t) ∨ (s.regionOk a n = false ∧ t = s.record (some .addressError)) := by
  unfold withRegion
  cases s.regionOk a n <;> simp [eq_comm]

theorem withRegion_ok {a n : Nat} (h : s.regionOk a n = true) (k : Result) : withRegion s a n k = k := by
  simp [withRegion, h]

theorem withBytes_next {a n : Nat} {k : List Byte → Result} :
    withBytes s a n k = .next t ↔ ∃ vs, s.memRead a n = .ok vs ∧ k vs = .next t := by
  unfold withBytes
  cases s.memRead a n <;> simp

theorem withBytes_ok {a n : Nat} {vs : List Byte} (h : s.memRead a n = .ok vs) (k : List Byte → Result) :
    withBytes s a n k = k vs := by
  simp [withBytes, h]

theorem withBytesIf_next {needed : Bool} {a n : Nat} {k : List Byte → Result} :
    withBytesIf needed s a n k = .next t ↔
      (needed = true ∧ ∃ vs, s.memRead a n = .ok vs ∧ k vs = .next t) ∨ (needed = false ∧ k [] = .next t) := by
  unfold withBytesIf
  cases needed <;> simp [withBytes_next]

theorem andThen_next {r : Result} {k : State → Result} :
    andThen r k = .next t ↔ ∃ u, r = .next u ∧ k u = .next t := by
  unfold andThen
  cases r <;> simp

/-- KeyReady leaves a valid cache alone and fills an invalid one from a legal key (41_key_schedule.md R427). -/
theorem keyReady_some :
    s.keyReady = some u ↔
      (s.keyValid = true ∧ u = s) ∨ (s.keyValid = false ∧ keyLenOk s.keyLen = true ∧ u = s.keyFilled) := by
  unfold State.keyReady State.generate
  cases s.keyValid <;> cases keyLenOk s.keyLen <;> simp [eq_comm]

theorem keyReady_none : s.keyReady = none ↔ s.keyValid = false ∧ keyLenOk s.keyLen = false := by
  unfold State.keyReady State.generate
  cases s.keyValid <;> cases keyLenOk s.keyLen <;> simp

/-- KeyReady changes the key cache and nothing else. -/
theorem keyReady_frame (h : s.keyReady = some u) :
    u = { s with rk := u.rk, irk := u.irk, keyValid := u.keyValid, nk := u.nk, nr := u.nr } := by
  rcases keyReady_some.1 h with ⟨_, rfl⟩ | ⟨_, _, rfl⟩ <;> rfl

theorem withKey_next {k : State → Result} :
    withKey s k = .next t ↔
      (∃ u, s.keyReady = some u ∧ k u = .next t) ∨
        (s.keyReady = none ∧ t = s.record (some .invalidKeySize)) := by
  unfold withKey
  cases s.keyReady <;> simp [eq_comm]

theorem withKey_ok (h : s.keyReady = some u) (k : State → Result) : withKey s k = k u := by simp [withKey, h]

theorem withRound_next {round : Nat} {k : State → Result} :
    withRound s round k = .next t ↔
      (∃ u, s.keyReady = some u ∧ round ≤ u.nr.toNat ∧ k u = .next t) ∨
        (∃ u, s.keyReady = some u ∧ u.nr.toNat < round ∧ t = u.record (some .illegalCommand)) ∨
          (s.keyReady = none ∧ t = s.record (some .invalidKeySize)) := by
  unfold withRound
  rw [withKey_next]
  cases hk : s.keyReady with
  | none => simp
  | some u =>
    by_cases h : u.nr.toNat < round
    · have : ¬ round ≤ u.nr.toNat := by omega
      simp [h, eq_comm]
    · simp [h, Nat.le_of_not_lt h]

/-- What the shared checks of the CBC buffer commands can do (44_cbc.md R504). -/
theorem withCbcBuffer_next {k : State → Result} :
    withCbcBuffer s k = .next t ↔
      (s.regionOk s.src s.srcL = true ∧ s.regionOk s.dst s.srcL = true ∧
        ((∃ u, s.keyReady = some u ∧ u.srcL % 16 = 0 ∧ k u = .next t) ∨
          (∃ u, s.keyReady = some u ∧ u.srcL % 16 ≠ 0 ∧ t = u.record (some .internalError)) ∨
            (s.keyReady = none ∧ t = s.record (some .invalidKeySize)))) ∨
        ((s.regionOk s.src s.srcL = false ∨ s.regionOk s.dst s.srcL = false) ∧
          t = s.record (some .addressError)) := by
  unfold withCbcBuffer
  rw [withRegion_next, withRegion_next, withKey_next]
  cases hs : s.regionOk s.src s.srcL <;> cases hd : s.regionOk s.dst s.srcL <;> simp
  cases hk : s.keyReady with
  | none => simp
  | some u =>
    simp only [Option.some.injEq, exists_eq_left', reduceCtorEq, false_and, or_false]
    by_cases h : u.srcL % 16 = 0 <;> simp [h, eq_comm (a := t)]

theorem withUnpad_next {n len : Nat} {k : Nat → Result} :
    withUnpad s n len k = .next t ↔
      (unpadOk n len = true ∧ k n = .next t) ∨ (unpadOk n len = false ∧ t = s.record (some .invalidPadding)) := by
  unfold withUnpad
  cases unpadOk n len <;> simp [eq_comm]

/-- Every check of HASH_FINAL and HASH, and the message read (48_hash_hmac.md R636). -/
theorem withHashOperands_next {alg : Alg} {k : List Byte → Result} :
    withHashOperands alg s k = .next t ↔
      (s.regionOk s.src s.srcL = true ∧ s.regionOk s.dst (digestLen alg) = true ∧
        ∃ m, s.memRead s.src s.srcL = .ok m ∧ k m = .next t) ∨
        ((s.regionOk s.src s.srcL = false ∨ s.regionOk s.dst (digestLen alg) = false) ∧
          t = s.record (some .addressError)) := by
  unfold withHashOperands
  rw [withRegion_next, withRegion_next, withBytes_next]
  cases s.regionOk s.src s.srcL <;> cases s.regionOk s.dst (digestLen alg) <;> simp

/-- The last byte of the block before the final one (45_pkcs7.md R535). -/
theorem withPrevLast_next {k : Byte → Result} :
    withPrevLast s k = .next t ↔
      (s.srcL = 16 ∧ k (byteAt (store16 s.chain) 15) = .next t) ∨
        (s.srcL ≠ 16 ∧ ∃ vs, s.memRead (s.src + s.srcL - 17) 1 = .ok vs ∧ k (byteAt vs 0) = .next t) := by
  unfold withPrevLast
  by_cases h : s.srcL = 16 <;> simp [h, withBytes_next]

/-- The final block is read, and the last byte of the block before it (45_pkcs7.md R535). -/
theorem withLastPlain_next {k : Byte → Result} :
    withLastPlain s k = .next t ↔
      ∃ vs, s.memRead (s.src + s.srcL - 16) 16 = .ok vs ∧
        withPrevLast s (fun p => k (byteAt (store16 (s.decryptBlock (load16 vs))) 15 ^^^ p)) = .next t := withBytes_next

/-- Every check of the KDF commands, and the inputs read where the output is not empty (49_kdf.md R681). -/
theorem withKdfOperands_next {k : List Byte → List Byte → Result} :
    withKdfOperands s k = .next t ↔
      (s.regionOk s.aux s.auxL = true ∧ s.regionOk s.salt s.saltL = true ∧ s.regionOk s.dst s.kdfLen = true ∧
        ((s.kdfLen = 0 ∧ k [] [] = .next t) ∨
          (s.kdfLen ≠ 0 ∧ ∃ p salt, s.memRead s.aux s.auxL = .ok p ∧ s.memRead s.salt s.saltL = .ok salt ∧ k p salt = .next t))) ∨
        ((s.regionOk s.aux s.auxL = false ∨ s.regionOk s.salt s.saltL = false ∨ s.regionOk s.dst s.kdfLen = false) ∧
          t = s.record (some .addressError)) := by
  unfold withKdfOperands
  simp only [withRegion_next, withBytesIf_next]
  cases s.regionOk s.aux s.auxL <;> cases s.regionOk s.salt s.saltL <;> cases s.regionOk s.dst s.kdfLen <;> simp
  by_cases h : s.kdfLen = 0 <;> simp [h]

/-- A region made unspecified holds fresh free draws, and every other byte is as before (70_reset_and_hazards.md R902). -/
theorem State.dmemByte_unspecify (s : State) (a n b : Nat) :
    (s.unspecify a n).dmemByte b =
      if a ≤ b ∧ b < a + n then some (Config.freeByte (s.draws + (b - a))) else s.dmemByte b := by
  have h : (s.unspecify a n).dmemByte b = (s.memWrite a (freeBytes s.draws n)).dmemByte b := rfl
  rw [h, State.dmemByte_memWrite, freeBytes_length]
  by_cases hb : a ≤ b ∧ b < a + n
  · rw [if_pos hb, if_pos hb, freeBytes_get _ _ _ (by omega)]
  · rw [if_neg hb, if_neg hb]

/-- What a run of blocks leaves of a state: only CHAIN, the draws and the DMEM bytes of its output region change. -/
structure RegionFrame (s t : State) (b n : Nat) : Prop where
  same : t = { s with dmem := t.dmem, chain := t.chain, draws := t.draws }
  wf : Memory.wf s.dmem → Memory.wf t.dmem
  listed : ∀ c ∈ t.dmem, (b ≤ c.1 ∧ c.1 < b + n) ∨ c ∈ s.dmem
  outside : ∀ o, ¬ (b ≤ o ∧ o < b + n) → t.dmemByte o = s.dmemByte o
  inside : ∀ o, b ≤ o → o < b + n → t.dmemByte o ≠ none

theorem RegionFrame.refl (s : State) (b : Nat) : RegionFrame s s b 0 where
  same := rfl
  wf h := h
  listed _ h := .inr h
  outside _ _ := rfl
  inside _ h h' := by omega

theorem RegionFrame.trans {b n k : Nat} (h : RegionFrame s u b n) (g : RegionFrame u t (b + n) k) :
    RegionFrame s t b (n + k) where
  same := by rw [g.same, h.same]
  wf hs := g.wf (h.wf hs)
  listed c hc := by
    rcases g.listed c hc with hc | hc
    · left; omega
    · rcases h.listed c hc with hc | hc
      · left; omega
      · exact .inr hc
  outside o ho := (g.outside o (by omega)).trans (h.outside o (by omega))
  inside o ho ho' := by
    by_cases hb : b + n ≤ o
    · exact g.inside o hb (by omega)
    · rw [g.outside o (by omega)]; exact h.inside o ho (by omega)

/-- A block written with CHAIN and the draws updated. -/
theorem RegionFrame.block (s : State) (c : Quad) (b : Nat) (vs : List Byte) (free : Bool) :
    RegionFrame s (((s.withChain c).memWrite b vs).outDrawn free) b vs.length where
  same := by cases free <;> rfl
  wf h := by cases free <;> exact Memory.writeBytes_wf vs h b
  listed x hx := by cases free <;> exact Memory.mem_writeBytes vs hx
  outside o ho := by
    have : (((s.withChain c).memWrite b vs).outDrawn free).dmemByte o = ((s.withChain c).memWrite b vs).dmemByte o := by
      cases free <;> rfl
    rw [this, State.dmemByte_memWrite, if_neg ho]; rfl
  inside o ho ho' := by
    have : (((s.withChain c).memWrite b vs).outDrawn free).dmemByte o = ((s.withChain c).memWrite b vs).dmemByte o := by
      cases free <;> rfl
    rw [this, State.dmemByte_memWrite, if_pos ⟨ho, ho'⟩, List.getElem?_eq_getElem (by omega)]
    simp

theorem cbcEncTo_frame (s : State) (free : Bool) (b : Nat) (p : Quad) : RegionFrame s (s.cbcEncTo free b p) b 16 :=
  RegionFrame.block s _ b (store16 _) free

theorem cbcDecTo_frame (s : State) (free : Bool) (b : Nat) (c : Quad) : RegionFrame s (s.cbcDecTo free b c) b 16 :=
  RegionFrame.block s _ b (store16 _) free

theorem cbcEncLoop_frame (free : Bool) (n : Nat) : ∀ (a b : Nat) (s t : State), cbcEncLoop free n a b s = .next t →
    RegionFrame s t b (16 * n) := by
  induction n with
  | zero => intro a b s t h; simp only [cbcEncLoop, Host.Outcome.next.injEq] at h; subst h; exact .refl s b
  | succ n ih =>
    intro a b s t h
    obtain ⟨vs, _, h⟩ := withBytes_next.1 h
    have := (cbcEncTo_frame s free b (load16 vs)).trans (ih _ _ _ _ h)
    rwa [show 16 + 16 * n = 16 * (n + 1) by omega] at this

theorem cbcDecLoop_frame (free : Bool) (n : Nat) : ∀ (a b : Nat) (s t : State), cbcDecLoop free n a b s = .next t →
    RegionFrame s t b (16 * n) := by
  induction n with
  | zero => intro a b s t h; simp only [cbcDecLoop, Host.Outcome.next.injEq] at h; subst h; exact .refl s b
  | succ n ih =>
    intro a b s t h
    obtain ⟨vs, _, h⟩ := withBytes_next.1 h
    have := (cbcDecTo_frame s free b (load16 vs)).trans (ih _ _ _ _ h)
    rwa [show 16 + 16 * n = 16 * (n + 1) by omega] at this

theorem cbcEncString_frame (free : Bool) (n : Nat) : ∀ (b : Nat) (m : List Byte) (s : State),
    RegionFrame s (cbcEncString free n b m s) b (16 * n) := by
  induction n with
  | zero => intro b m s; exact .refl s b
  | succ n ih =>
    intro b m s
    have := (cbcEncTo_frame s free b (load16 (m.take 16))).trans (ih (b + 16) (m.drop 16) _)
    rwa [show 16 + 16 * n = 16 * (n + 1) by omega] at this

/-- The padding count is 1 .. 16 and completes a block (45_pkcs7.md R530). -/
theorem padCount_bounds (len : Nat) : 1 ≤ padCount len ∧ padCount len ≤ 16 ∧ (len + padCount len) % 16 = 0 := by
  unfold padCount; omega

@[simp] theorem padBytes_length (len : Nat) : (padBytes len).length = padCount len := by simp [padBytes]

@[simp] theorem digest_length (alg : Alg) (h : Oct) : (digest alg h).length = digestLen alg := by
  cases alg <;> rfl

@[simp] theorem hashOf_length (alg : Alg) (m : List Byte) : (hashOf alg m).length = digestLen alg := by
  simp [hashOf]

@[simp] theorem lenField_length (alg : Alg) (n : Nat) : (lenField alg n).length = 8 := by cases alg <;> rfl

@[simp] theorem hmacOf_length (alg : Alg) (k m : List Byte) : (hmacOf alg k m).length = digestLen alg := by
  simp [hmacOf]

theorem digestLen_pos (alg : Alg) : 0 < digestLen alg := by cases alg <;> decide

end Sys2Proof.Machine
end

