-- ==== Sys2Proof/Laws/Completion.lean ====
section
/-! SUPPORT. Where every DMEM byte has a value, every shared operation goes on, so every command word completes: the fault of
20_memory.md R211 is the only stop of a command. -/

namespace Sys2Proof.Machine

variable {s : State}

/-- The result is a next state. -/
def Completes (r : Result) : Prop := ∃ t, r = .next t

/-- Under DMEM_UNINIT = arbitrary every DMEM byte has a value (20_memory.md R211). -/
def State.HoldsEveryByte (s : State) : Prop := s.cfg.dmemUninit = .arbitrary

theorem completes_next (s : State) : Completes (.next s) := ⟨s, rfl⟩

theorem withEveryByte_holds (s : State) : s.withEveryByte.HoldsEveryByte := rfl

theorem dmemByte_of_holds (h : s.HoldsEveryByte) (a : Nat) : ∃ v, s.dmemByte a = some v := by
  unfold State.dmemByte unlistedByte
  cases Memory.read s.dmem a <;> simp [show s.cfg.dmemUninit = .arbitrary from h]

theorem memRead_of_holds (h : s.HoldsEveryByte) (n : Nat) : ∀ a, ∃ vs, s.memRead a n = .ok vs := by
  induction n with
  | zero => exact fun a => ⟨[], rfl⟩
  | succ n ih =>
    intro a
    obtain ⟨v, hv⟩ := dmemByte_of_holds h a
    obtain ⟨vs, hvs⟩ := ih (a + 1)
    exact ⟨v :: vs, by simp [State.memRead, hv, hvs]⟩

theorem withBytes_completes (h : s.HoldsEveryByte) (a n : Nat) {k : List Byte → Result} (hk : ∀ vs, Completes (k vs)) :
    Completes (withBytes s a n k) := by
  obtain ⟨vs, hvs⟩ := memRead_of_holds h n a
  rw [withBytes_ok hvs]; exact hk vs

theorem withBytesIf_completes (h : s.HoldsEveryByte) (b : Bool) (a n : Nat) {k : List Byte → Result}
    (hk : ∀ vs, Completes (k vs)) : Completes (withBytesIf b s a n k) := by
  cases b
  · exact hk []
  · exact withBytes_completes h a n hk

theorem withRegion_completes (a n : Nat) {k : Result} (hk : Completes k) : Completes (withRegion s a n k) := by
  unfold withRegion; split
  · exact hk
  · exact completes_next _

theorem withKey_completes (h : s.HoldsEveryByte) {k : State → Result} (hk : ∀ u : State, u.HoldsEveryByte → Completes (k u)) :
    Completes (withKey s k) := by
  cases hu : s.keyReady with
  | none => exact ⟨_, withKey_next.2 (.inr ⟨hu, rfl⟩)⟩
  | some u =>
    rw [withKey_ok hu]
    exact hk u (by rw [keyReady_frame hu]; exact h)

theorem withRound_completes (h : s.HoldsEveryByte) (r : Nat) {k : State → Result} (hk : ∀ u, Completes (k u)) :
    Completes (withRound s r k) := by
  unfold withRound
  refine withKey_completes h (fun u _ => ?_)
  split
  · exact completes_next _
  · exact hk u

theorem withUnpad_completes (n len : Nat) {k : Nat → Result} (hk : ∀ n, Completes (k n)) : Completes (withUnpad s n len k) := by
  unfold withUnpad; split
  · exact hk n
  · exact completes_next _

theorem withCbcBuffer_completes (h : s.HoldsEveryByte) {k : State → Result}
    (hk : ∀ u : State, u.HoldsEveryByte → Completes (k u)) : Completes (withCbcBuffer s k) := by
  unfold withCbcBuffer
  refine withRegion_completes _ _ (withRegion_completes _ _ (withKey_completes h (fun u hu => ?_)))
  split
  · exact completes_next _
  · exact hk u hu

theorem andThen_completes {r : Result} {k : State → Result} (hr : Completes r) (hk : ∀ u, Completes (k u)) :
    Completes (andThen r k) := by
  obtain ⟨u, rfl⟩ := hr; exact hk u

theorem cbcEncTo_holds (h : s.HoldsEveryByte) (free : Bool) (b : Nat) (p : Quad) : (s.cbcEncTo free b p).HoldsEveryByte := by
  cases free <;> exact h

theorem cbcDecTo_holds (h : s.HoldsEveryByte) (free : Bool) (b : Nat) (c : Quad) : (s.cbcDecTo free b c).HoldsEveryByte := by
  cases free <;> exact h

theorem cbcEncLoop_completes (free : Bool) (n : Nat) :
    ∀ (a b : Nat) (s : State), s.HoldsEveryByte → Completes (cbcEncLoop free n a b s) := by
  induction n with
  | zero => exact fun _ _ s _ => completes_next s
  | succ n ih => exact fun a b s h => withBytes_completes h a 16 (fun _ => ih _ _ _ (cbcEncTo_holds h _ _ _))

theorem cbcDecLoop_completes (free : Bool) (n : Nat) :
    ∀ (a b : Nat) (s : State), s.HoldsEveryByte → Completes (cbcDecLoop free n a b s) := by
  induction n with
  | zero => exact fun _ _ s _ => completes_next s
  | succ n ih => exact fun a b s h => withBytes_completes h a 16 (fun _ => ih _ _ _ (cbcDecTo_holds h _ _ _))

theorem withLastPlain_completes (h : s.HoldsEveryByte) {k : Byte → Result} (hk : ∀ v, Completes (k v)) :
    Completes (withLastPlain s k) := by
  refine withBytes_completes h _ _ (fun vs => ?_)
  unfold withPrevLast; split
  · exact hk _
  · exact withBytes_completes h _ _ (fun _ => hk _)

theorem withHashOperands_completes (h : s.HoldsEveryByte) (alg : Alg) {k : List Byte → Result} (hk : ∀ m, Completes (k m)) :
    Completes (withHashOperands alg s k) :=
  withRegion_completes _ _ (withRegion_completes _ _ (withBytes_completes h _ _ hk))

theorem withKdfOperands_completes (h : s.HoldsEveryByte) {k : List Byte → List Byte → Result}
    (hk : ∀ p salt, Completes (k p salt)) : Completes (withKdfOperands s k) :=
  withRegion_completes _ _ (withRegion_completes _ _ (withRegion_completes _ _
    (withBytesIf_completes h _ _ _ (fun p => withBytesIf_completes h _ _ _ (hk p)))))

theorem execDecrypt_completes (h : s.HoldsEveryByte) : Completes (execDecrypt s) := by
  refine withCbcBuffer_completes h (fun u hu => ?_)
  split
  · exact completes_next _
  · exact withLastPlain_completes hu (fun _ => withUnpad_completes _ _ (fun _ =>
      andThen_completes (cbcDecLoop_completes _ _ _ _ _ hu) (fun _ => completes_next _)))

theorem execUnpad_completes (h : s.HoldsEveryByte) : Completes (execUnpad s) := by
  refine withRegion_completes _ _ ?_
  split
  · exact completes_next _
  · exact withBytes_completes h _ _ (fun _ => withUnpad_completes _ _ (fun _ => completes_next _))

theorem execHashUpdate_completes (h : s.HoldsEveryByte) (alg : Alg) : Completes (execHashUpdate alg s) := by
  refine withRegion_completes _ _ ?_
  split
  · exact completes_next _
  · exact withBytes_completes h _ _ (fun _ => completes_next _)

theorem execKeyexp_completes (s : State) : Completes (execKeyexp s) := by
  unfold execKeyexp; split <;> exact completes_next _

theorem exec_completes (h : s.HoldsEveryByte) (i : Instr) : Completes (exec i s) := by
  cases i with
  | nop => exact completes_next _
  | keyexp => exact execKeyexp_completes s
  | keyclr => exact completes_next _
  | aesEnc => exact withKey_completes h (fun _ _ => completes_next _)
  | aesDec => exact withKey_completes h (fun _ _ => completes_next _)
  | subbytes => exact completes_next _
  | invsubbytes => exact completes_next _
  | shiftrows => exact completes_next _
  | invshiftrows => exact completes_next _
  | mixcolumns => exact completes_next _
  | invmixcolumns => exact completes_next _
  | addrk r => exact withRound_completes h r (fun _ => completes_next _)
  | addirk r => exact withRound_completes h r (fun _ => completes_next _)
  | gfmul a b => exact completes_next _
  | cbcEncBlk => exact withKey_completes h (fun _ _ => completes_next _)
  | cbcDecBlk => exact withKey_completes h (fun _ _ => completes_next _)
  | cbcEncBuf =>
    exact withCbcBuffer_completes h (fun _ hu =>
      andThen_completes (cbcEncLoop_completes _ _ _ _ _ hu) (fun _ => completes_next _))
  | cbcDecBuf =>
    exact withCbcBuffer_completes h (fun _ hu =>
      andThen_completes (cbcDecLoop_completes _ _ _ _ _ hu) (fun _ => completes_next _))
  | pad => exact withRegion_completes _ _ (completes_next _)
  | unpad => exact execUnpad_completes h
  | encrypt =>
    exact withRegion_completes _ _ (withRegion_completes _ _ (withKey_completes h (fun _ hu =>
      withBytes_completes hu _ _ (fun _ => completes_next _))))
  | decrypt => exact execDecrypt_completes h
  | hashInit alg => exact completes_next _
  | hashUpdate alg => exact execHashUpdate_completes h alg
  | hashFinal alg => exact withHashOperands_completes h alg (fun _ => completes_next _)
  | hash alg => exact withHashOperands_completes h alg (fun _ => completes_next _)
  | hmac alg =>
    exact withRegion_completes _ _ (withRegion_completes _ _ (withRegion_completes _ _
      (withBytes_completes h _ _ (fun _ => withBytes_completes h _ _ (fun _ => completes_next _)))))
  | pbkdf2 alg => exact withKdfOperands_completes h (fun _ _ => completes_next _)
  | evpkdf alg => exact withKdfOperands_completes h (fun _ _ => completes_next _)

theorem runCommand_completes (h : s.HoldsEveryByte) (c : Word) : Completes (runCommand c s) := by
  unfold runCommand; split
  · exact completes_next _
  · exact exec_completes h _

/-- The completion that keyFieldsAtCompletion looks at is always there (10_state.md R105). -/
theorem runCommand_withEveryByte (c : Word) (s : State) : ∃ t, runCommand c s.withEveryByte = .next t :=
  runCommand_completes (withEveryByte_holds s) c

/-- While a command runs, the key fields at completion are those of a state the command leaves (10_state.md R105). -/
theorem keyFieldsAtCompletion_run {c : Word} {left : Nat} (h : s.phase = .run c left) :
    ∃ t, runCommand c s.withEveryByte = .next t ∧ keyFieldsAtCompletion s = keyFields t := by
  obtain ⟨t, ht⟩ := runCommand_withEveryByte c s
  exact ⟨t, ht, by simp [keyFieldsAtCompletion, h, ht]⟩

end Sys2Proof.Machine
end

