-- ==== Sys2Proof/Laws/PerInstr.lean ====
section
/-! SUPPORT. Per-instruction facts about the syntax: where a command's opcode and its operand bits stand in its word. -/

namespace Sys2Proof.Laws.OpcodeField

/-- The low byte of the command word is the opcode, and the bits above it are the operand bits (30_encoding.md R300, R301). -/
def Statement (i : Instr) : Prop :=
  (encode i).extractLsb' 0 8 = i.opcode ∧ (encode i).extractLsb' 8 24 = i.operandBits

theorem of_encode (i : Instr) : Statement i := by
  constructor <;> apply BitVec.eq_of_getLsbD_eq <;> intro k hk
  · rw [encode, BitVec.getLsbD_extractLsb', BitVec.getLsbD_append]; simp [hk]
  · have h1 : ¬ (8 + k < 8) := by omega
    rw [encode, BitVec.getLsbD_extractLsb', BitVec.getLsbD_append]; simp [hk, h1]

theorem nop : Statement .nop := of_encode _

theorem keyexp : Statement .keyexp := of_encode _

theorem keyclr : Statement .keyclr := of_encode _

theorem aesEnc : Statement .aesEnc := of_encode _

theorem aesDec : Statement .aesDec := of_encode _

theorem subbytes : Statement .subbytes := of_encode _

theorem invsubbytes : Statement .invsubbytes := of_encode _

theorem shiftrows : Statement .shiftrows := of_encode _

theorem invshiftrows : Statement .invshiftrows := of_encode _

theorem mixcolumns : Statement .mixcolumns := of_encode _

theorem invmixcolumns : Statement .invmixcolumns := of_encode _

theorem addrk (round : Nat) : Statement (.addrk round) := of_encode _

theorem addirk (round : Nat) : Statement (.addirk round) := of_encode _

theorem gfmul (ga gb : Byte) : Statement (.gfmul ga gb) := of_encode _

theorem cbcEncBlk : Statement .cbcEncBlk := of_encode _

theorem cbcDecBlk : Statement .cbcDecBlk := of_encode _

theorem cbcEncBuf : Statement .cbcEncBuf := of_encode _

theorem cbcDecBuf : Statement .cbcDecBuf := of_encode _

theorem pad : Statement .pad := of_encode _

theorem unpad : Statement .unpad := of_encode _

theorem encrypt : Statement .encrypt := of_encode _

theorem decrypt : Statement .decrypt := of_encode _

theorem hashInit (alg : Alg) : Statement (.hashInit alg) := of_encode _

theorem hashUpdate (alg : Alg) : Statement (.hashUpdate alg) := of_encode _

theorem hashFinal (alg : Alg) : Statement (.hashFinal alg) := of_encode _

theorem hash (alg : Alg) : Statement (.hash alg) := of_encode _

theorem hmac (alg : Alg) : Statement (.hmac alg) := of_encode _

theorem pbkdf2 (alg : Alg) : Statement (.pbkdf2 alg) := of_encode _

theorem evpkdf (alg : Alg) : Statement (.evpkdf alg) := of_encode _

end Sys2Proof.Laws.OpcodeField
end

