-- ==== Sys2Proof/Tests/Slice0.lean ====
section
/-! SUPPORT. Own tests: ill-formed terms refused, words written out from the spec decoded, a few results whose expected values are
spec/95_test_vectors.md's and the command rules' examples, and a witness for the hypotheses of every statement. -/

namespace Sys2Proof.Tests

open Sys2Proof Sys2Proof.Machine

/-! ### WellFormed -/

theorem test_addrk_round_16_refused : Instr.wf (.addrk 16) = false := by decide

theorem test_addirk_round_16_refused : Instr.wf (.addirk 16) = false := by decide

theorem test_addrk_round_15_accepted : Instr.wf (.addrk 15) = true := by decide

/-! ### Decoding: the words of R304's table, written out bit by bit -/

theorem test_decode_control :
    decode 0b00000000000000000000000000000000#32 = .ok .nop ∧
    decode 0b00000000000000000000000000000001#32 = .ok .keyexp ∧
    decode 0b00000000000000000000000000000010#32 = .ok .keyclr := by decide

theorem test_decode_aes :
    decode 0b00000000000000000000000000010000#32 = .ok .aesEnc ∧
    decode 0b00000000000000000000000000010001#32 = .ok .aesDec ∧
    decode 0b00000000000000000000000000011000#32 = .ok .subbytes ∧
    decode 0b00000000000000000000000000011001#32 = .ok .invsubbytes ∧
    decode 0b00000000000000000000000000011010#32 = .ok .shiftrows ∧
    decode 0b00000000000000000000000000011011#32 = .ok .invshiftrows ∧
    decode 0b00000000000000000000000000011100#32 = .ok .mixcolumns ∧
    decode 0b00000000000000000000000000011101#32 = .ok .invmixcolumns := by decide

theorem test_decode_operands :
    decode 0b00000000000000001010000000011110#32 = .ok (.addrk 10) ∧
    decode 0b00000000000000000001000000011111#32 = .ok (.addirk 1) ∧
    decode 0b10000011010101110000000000100000#32 = .ok (.gfmul 0x57 0x83) := by decide

theorem test_decode_modes :
    decode 0b00000000000000000000000000110000#32 = .ok .cbcEncBlk ∧
    decode 0b00000000000000000000000000110001#32 = .ok .cbcDecBlk ∧
    decode 0b00000000000000000000000000110010#32 = .ok .cbcEncBuf ∧
    decode 0b00000000000000000000000000110011#32 = .ok .cbcDecBuf ∧
    decode 0b00000000000000000000000000111000#32 = .ok .pad ∧
    decode 0b00000000000000000000000000111001#32 = .ok .unpad ∧
    decode 0b00000000000000000000000000111010#32 = .ok .encrypt ∧
    decode 0b00000000000000000000000000111011#32 = .ok .decrypt := by decide

theorem test_decode_hashes :
    decode 0b00000000000000000000000101000000#32 = .ok (.hashInit .sha256) ∧
    decode 0b00000000000000000000000001000001#32 = .ok (.hashUpdate .md5) ∧
    decode 0b00000000000000000000000101000010#32 = .ok (.hashFinal .sha256) ∧
    decode 0b00000000000000000000000101000011#32 = .ok (.hash .sha256) ∧
    decode 0b00000000000000000000000001001000#32 = .ok (.hmac .md5) ∧
    decode 0b00000000000000000000000101010000#32 = .ok (.pbkdf2 .sha256) ∧
    decode 0b00000000000000000000000001010001#32 = .ok (.evpkdf .md5) := by decide

/-- R305: an unassigned opcode, a must-be-zero bit of each format, and ALG = 2 and 15. -/
theorem test_decode_illegal :
    decode 0x00000003 = .error .unassignedOpcode ∧ decode 0x80000000 = .error .mustBeZero ∧
    decode 0x00001043 = .error .mustBeZero ∧ decode 0x0001001E = .error .mustBeZero ∧
    decode 0x0000011E = .error .mustBeZero ∧ decode 0x00000120 = .error .mustBeZero ∧
    decode 0x00000240 = .error .reservedAlg ∧ decode 0x00000F51 = .error .reservedAlg := by decide

/-! ### Small states -/

/-- DMEM cells for a byte string from an offset on. -/
def cells (a : Nat) (vs : List Byte) : List Host.Cell := vs.zipIdx.map (fun p => (a + p.2, p.1))

/-- A state after reset with SRC, DST and DMEM bytes from offset 0 on. -/
def stage (src len dst : Nat) (vs : List Byte) : State :=
  { State.reset with
    srcAddr := BitVec.ofNat 32 src, srcLen := BitVec.ofNat 32 len, dstAddr := BitVec.ofNat 32 dst, dmem := cells 0 vs }

/-- The AES-128 key of R423, not yet expanded, with the IV of R504's example. -/
def withAes (s : State) : State :=
  { s with
    keyLen := 16, key := ⟨0x2b7e1516, 0x28aed2a6, 0xabf71588, 0x09cf4f3c, 0, 0, 0, 0⟩
    chain := ⟨0x00010203, 0x04050607, 0x08090a0b, 0x0c0d0e0f⟩ }

/-- A running NOP. -/
def running : State := { State.reset with phase := .run 0 1 }

/-- What a result leaves, read by `f`. -/
def after {α : Type} (r : Result) (f : State → α) : Option α :=
  match r with
  | .next t => some (f t)
  | .fault _ => none
  | .refused _ => none

/-! ### Results, from the examples of the command rules -/

/-- R423: words 4 to 7 and round 10 of RK, and round 1 of IRK. -/
theorem test_key_schedule :
    let w := forwardOf 16 (withAes State.reset).key
    let d := inverseOf 16 (withAes State.reset).key
    (w.drop 4).take 4 = [0xa0fafe17, 0x88542cb1, 0x23a33939, 0x2a6c7605] ∧
    (w.drop 40).take 5 = [0xd014f9a8, 0xc9ee2589, 0xe13f0cc8, 0xb6630ca6] ∧
    (d.drop 4).take 4 = [0x0c7b5a63, 0x1319eafe, 0xb0398890, 0x664cfbb4] := by decide +kernel

/-- R482: FIPS-197 C.1 through AES_ENC, with the key filled on the way. -/
theorem test_aes_enc :
    after (exec .aesEnc
        { State.reset with
          keyLen := 16, key := ⟨0x00010203, 0x04050607, 0x08090a0b, 0x0c0d0e0f, 0, 0, 0, 0⟩
          block := ⟨0x00112233, 0x44556677, 0x8899aabb, 0xccddeeff⟩ })
      (fun t => (t.block, statusWord t)) =
      some (⟨0x69c4e0d8, 0x6a7b0430, 0xd8cdb780, 0x70b4c55a⟩, 0x004A000A) := by decide +kernel

/-- R485: AES-256 decrypts its ciphertext through AES_DEC. -/
theorem test_aes_dec_256 :
    after (exec .aesDec
        { State.reset with
          keyLen := 32
          key := ⟨0x00010203, 0x04050607, 0x08090a0b, 0x0c0d0e0f, 0x10111213, 0x14151617, 0x18191a1b, 0x1c1d1e1f⟩
          block := ⟨0x8ea2b7ca, 0x516745bf, 0xeafc4990, 0x4b496089⟩ })
      (fun t => t.block) = some ⟨0x00112233, 0x44556677, 0x8899aabb, 0xccddeeff⟩ := by decide +kernel

/-- R458, R459: round 1 added from RK and from IRK. -/
theorem test_round_keys :
    after (exec (.addrk 1) { withAes State.reset with block := ⟨0x046681e5, 0xe0cb199a, 0x48f8d37a, 0x2806264c⟩ })
      (fun t => t.block) = some ⟨0xa49c7ff2, 0x689f352b, 0x6b5bea43, 0x026a5049⟩ ∧
    after (exec (.addirk 1) (withAes State.reset)) (fun t => t.block) =
      some ⟨0x0c7b5a63, 0x1319eafe, 0xb0398890, 0x664cfbb4⟩ := by decide +kernel

/-- R502: one CBC step; CHAIN takes the ciphertext. -/
theorem test_cbc_enc_blk :
    after (exec .cbcEncBlk { withAes State.reset with block := ⟨0x6bc1bee2, 0x2e409f96, 0xe93d7e11, 0x7393172a⟩ })
      (fun t => (t.block, t.chain)) =
      some (⟨0x7649abac, 0x8119b246, 0xcee98e9b, 0x12e9197d⟩, ⟨0x7649abac, 0x8119b246, 0xcee98e9b, 0x12e9197d⟩) := by
  decide +kernel

/-- R503: CHAIN takes the ciphertext saved before decryption, not the plaintext. -/
theorem test_cbc_dec_blk :
    after (exec .cbcDecBlk { withAes State.reset with block := ⟨0x7649abac, 0x8119b246, 0xcee98e9b, 0x12e9197d⟩ })
      (fun t => (t.block, t.chain)) =
      some (⟨0x6bc1bee2, 0x2e409f96, 0xe93d7e11, 0x7393172a⟩, ⟨0x7649abac, 0x8119b246, 0xcee98e9b, 0x12e9197d⟩) := by
  decide +kernel

/-- R531's example: the padding starts mid-word, and SRC_LEN stays. -/
theorem test_pad :
    after (exec .pad (stage 0 5 0 [1, 2, 3, 4, 5])) (fun t => (t.dmemByte 4, t.dmemByte 5, t.dmemByte 15, t.dmemByte 16, t.resLen)) =
      some (some 5, some 0x0b, some 0x0b, none, 16) := by decide +kernel

/-- R533's examples: RES_LEN = 5, and a last byte over the length. -/
theorem test_unpad :
    after (exec .unpad (stage 0 16 0 [1, 2, 3, 4, 5, 11, 11, 11, 11, 11, 11, 11, 11, 11, 11, 11])) (fun t => t.resLen) = some 5 ∧
    after (exec .unpad (stage 0 3 0 [1, 2, 4])) (fun t => statusWord t) = some 0x00000206 := by decide +kernel

/-- R534's example: the ciphertext of "abc". -/
theorem test_encrypt_abc :
    after (exec .encrypt (withAes (stage 0 3 32 [0x61, 0x62, 0x63])))
      (fun t => (t.chain, t.dmemByte 32, t.dmemByte 47, t.resLen)) =
      some (⟨0xf327e729, 0x0b9b923d, 0x29d949db, 0x2c9f75cc⟩, some 0xf3, some 0xcc, 16) := by decide +kernel

/-- R535's example: a bad final byte raises InvalidPadding and writes nothing. -/
theorem test_decrypt_bad_padding :
    after (exec .decrypt (withAes (stage 0 16 32 (store16 ⟨0x50fe67cc, 0x996d32b6, 0xda0937e9, 0x9bafec60⟩))))
      (fun t => (statusWord t, t.dmemByte 32, t.chain.w0)) = some (0x004A020E, none, 0x00010203) := by decide +kernel

/-- R637's example: md5("abc"). -/
theorem test_hash_md5_abc :
    after (exec (.hash .md5) (stage 0 3 0 [0x61, 0x62, 0x63])) (fun t => (t.dmemByte 0, t.dmemByte 15, t.hstate.w0, t.hlen, t.resLen)) =
      some (some 0x90, some 0x72, 0x98500190, 3, 16) := by decide +kernel

/-- R608: the SHA-256 compression of the one block of "abc". -/
theorem test_sha256_abc :
    shaCompress shaIv ([0x61, 0x62, 0x63, 0x80] ++ List.replicate 59 0 ++ [0x18]) =
      ⟨0xba7816bf, 0x8f01cfea, 0x414140de, 0x5dae2223, 0xb00361a3, 0x96177a9c, 0xb410ff61, 0xf20015ad⟩ := by decide +kernel

/-- R653: the HMAC-MD5 of the empty message under the empty key. -/
theorem test_hmac_md5_empty :
    (hmacOf .md5 [] []).take 4 = [0x74, 0xe6, 0xf7, 0x29] := by decide +kernel

/-- R685: PBKDF2.MD5 of "password" and "salt", and EVPKDF.MD5 of "password" with an empty salt. -/
theorem test_kdf_md5 :
    (pbkdf2Of .md5 [0x70, 0x61, 0x73, 0x73, 0x77, 0x6f, 0x72, 0x64] [0x73, 0x61, 0x6c, 0x74] 1 16).take 4 = [0xf3, 0x1a, 0xfb, 0x6d] ∧
    (evpkdfOf .md5 [0x70, 0x61, 0x73, 0x73, 0x77, 0x6f, 0x72, 0x64] [] 1 16).take 4 = [0x5f, 0x4d, 0xcc, 0x3b] := by decide +kernel

/-- R812's example: DECRYPT with SRC_ADDR = 2, KEY_LEN = 0 and SRC_LEN = 5 reports AddressError. -/
theorem test_check_order : after (exec .decrypt (stage 2 5 0 [])) (fun t => statusWord t) = some 0x00000606 := by decide +kernel

/-- R105: while CBC_ENC_BUF runs over unwritten DMEM with a key not yet expanded, the key fields at completion are those of the
schedule KeyReady makes (Nr = 10, Nk = 4), and the fields at issue are those of no schedule. -/
theorem test_busy_key_fields_unwritten_source :
    let s := { withAes (stage 0 16 32 []) with phase := .run 0x32 1 }
    keyFieldsAtCompletion s = (true, 10, 4) ∧ keyFields s = (false, 0, 0) := by decide +kernel

/-- R105: STATUS bit 0 reads 1 while a command runs. -/
theorem test_busy_bit : (statusWith running (keyFields running)).getLsbD 0 = true := by decide

/-- R308: SETREG KDF_WORDS, 8 is the write of 8 to the register at 0x0B0 (10_state.md R117). -/
theorem test_setreg :
    after (hostTurn { State.reset with inputs := [asmSetReg 0x0B0 8] }) (fun t => (t.kdfWords, t.iter, t.inputs)) = some (8, 0, []) := by
  decide

/-! ### Witnesses for the hypotheses of the statements -/

theorem witness_well_formed : Instr.wf (.addirk 15) = true ∧ decode 0x0000F01F = .ok (.addirk 15) := by decide

theorem witness_illegal_word : LegalWord 0x0000F01E ∧ ¬ LegalWord 0x00000252 := by unfold LegalWord; decide

theorem witness_step_runs :
    decode 0 = .ok .nop ∧ running.phase = .run 0 1 ∧ 1 ≤ 1 ∧ running.turns = [] ∧
    ({ State.reset with phase := .run 0 2, turns := [.engine] } : State).turns.head? = some .engine := by decide

theorem witness_issued : State.reset.phase = .idle ∧ State.reset.rstLow = false ∧ State.reset.turns = [] := by decide

theorem witness_host_step :
    ({ running with turns := [.host] } : State).turns.head? = some .host ∧
    ({ State.reset with turns := [.engine] } : State).turns.head? = some .engine ∧
    State.reset.turns = [] ∧ State.reset.phase = .idle := by decide

theorem witness_host_turn :
    (∃ t, hostRead State.reset 0x00C = .next t) ∧ (0x001#17).toNat % 4 ≠ 0 ∧
    ({ State.reset with inputs := [.poll 0x00C 1 0] } : State).inputs = .poll 0x00C 1 0 :: [] := ⟨⟨_, rfl⟩, by decide, rfl⟩

theorem witness_busy_and_idle : running.rstLow = false ∧ running.phase = .run 0 1 ∧ State.reset.rstLow = false := by decide

theorem witness_completion : ∃ t, engineStep running = .next t := ⟨_, rfl⟩

theorem witness_error_precise :
    (∃ t, runCommand 0xFF State.reset = .next t ∧ t.err = true) ∧
    (∃ t, runCommand 0x32 (withAes (stage 0 15 0 [])) = .next t ∧ t.err = true) := ⟨⟨_, rfl, rfl⟩, ⟨_, rfl, rfl⟩⟩

theorem witness_check_order :
    firstError .decrypt (stage 2 5 0 []) = some .addressError ∧ firstError .nop State.reset = none ∧
    ∃ t, exec .nop State.reset = .next t := ⟨by decide, by decide, ⟨_, rfl⟩⟩

theorem witness_key_fill :
    let s := withAes (stage 0 15 0 [])
    s.keyValid = false ∧ s.keyLen = 16 ∧ regionsBeforeKey .decrypt s = true ∧ s.srcL % 16 ≠ 0 ∧ s.keyLen.toNat / 4 + 6 < 11 ∧
    s.srcLen = 15 ∧ s.regionOk s.src 15 = true ∧ s.regionOk s.dst 15 = true := by decide

/-- R535's example once more: the last plaintext byte of the one block is 0. -/
theorem witness_bad_padding :
    let s := withAes (stage 0 16 32 (store16 ⟨0x50fe67cc, 0x996d32b6, 0xda0937e9, 0x9bafec60⟩))
    regionsBeforeKey .decrypt s = true ∧ s.srcL % 16 = 0 ∧ s.srcL ≠ 0 ∧
    s.memRead s.src s.srcL = .ok (store16 ⟨0x50fe67cc, 0x996d32b6, 0xda0937e9, 0x9bafec60⟩) ∧
    (cbcPlain s.keyFilled (store16 ⟨0x50fe67cc, 0x996d32b6, 0xda0937e9, 0x9bafec60⟩)).getLastD 0 = 0 := by
  refine ⟨by decide, by decide, by decide, by rfl, by decide +kernel⟩

theorem witness_empty_decrypt :
    let s := withAes (stage 0 0 0 [])
    regionsBeforeKey .decrypt s = true ∧ s.srcL = 0 ∧ s.memRead s.src s.srcL = .ok [] := ⟨by decide, by decide, rfl⟩

theorem witness_no_key :
    usesKey .aesEnc = true ∧ regionsBeforeKey .aesEnc State.reset = true ∧ State.reset.keyValid = false ∧
    State.reset.keyLen ≠ 16 ∧ State.reset.keyLen ≠ 24 ∧ State.reset.keyLen ≠ 32 ∧ State.reset.keyReady = none :=
  ⟨rfl, rfl, rfl, by decide, by decide, by decide, rfl⟩

theorem witness_control_write : State.reset.rstLow = false ∧ (7#32).getLsbD 31 = false ∧ (0x80000007#32).getLsbD 31 = true := by
  decide

theorem witness_key_write : ∃ t, hostWrite State.reset (BitVec.ofNat 17 0x03C) 5 = .next t := ⟨_, rfl⟩

theorem witness_busy_write :
    running.phase = .run 0 1 ∧ (0x00C#17).toNat % 4 = 0 ∧ 0x00C#17 ≠ 0x008 ∧ 0x00C#17 ≠ 0x010 ∧ 0x00C#17 ≠ 0x014 ∧
    (0x1FFFC#17).toNat % 4 = 0 := by decide

theorem witness_host_read : ∃ t, hostRead State.reset 0x000 = .next t := ⟨_, rfl⟩

theorem witness_register_values :
    ((0x040, State.reset.chain.w0) : Nat × Word) ∈ registerValues State.reset ∧ 0x040 ≤ 0x040 := by decide

theorem witness_dmem_window :
    let s := stage 0 0 0 [1, 2, 3, 4]
    s.phase = .idle ∧ 0 < s.cfg.dmemWords ∧ 16383 < s.cfg.dmemWords ∧ s.dmemByte (4 * 0) = some 1 ∧ s.dmemByte (4 * 0 + 1) = some 2 ∧
    s.dmemByte (4 * 0 + 2) = some 3 ∧ s.dmemByte (4 * 0 + 3) = some 4 ∧
    ({ s with cfg := { s.cfg with dmemWords := 1 } } : State).cfg.dmemWords ≤ 1 := by decide

theorem witness_busy_reads :
    ((0x018, running.keyLen) : Nat × Word) ∈ registerValues running ∧ ((0x090, running.srcAddr) : Nat × Word) ∈ registerValues running ∧
    0x1FFFC < 0x10000 + running.dmemBytes := by decide

/-- The ends of the tables of R571 to R573 and R601. -/
theorem witness_tables : tableT.length = 64 ∧ tableK.length = 64 ∧ tableT.getD 63 0 = 0xeb86d391 ∧ tableK.getD 63 0 = 0xc67178f2 ∧
    md5Shift 0 = 7 ∧ md5Shift 63 = 21 ∧ md5Index 15 = 15 ∧ md5Index 16 = 1 ∧ md5Index 63 = 9 := by decide

theorem witness_reserved_offsets :
    reservedOffset 0x0B4 ∧ reservedOffset 0x0FC ∧ reservedOffset 0x1F0 ∧ reservedOffset 0x1FC ∧ reservedOffset 0x2F0 ∧
    reservedOffset 0xFFFC ∧ readOnlyOffset 0x100 ∧ readOnlyOffset 0x1EC ∧ readOnlyOffset 0x2EC ∧ ¬ reservedOffset 0x0B0 := by
  unfold reservedOffset readOnlyOffset; omega

theorem witness_soft_reset :
    (0x80000000#32).getLsbD 31 = true ∧ decode 0x3A = .ok .encrypt ∧ decode 0xFF = .error .unassignedOpcode ∧
    writesTo .encrypt (stage 0 3 32 []) = (32, 16) := by decide

theorem witness_reset_input :
    ({ State.reset with rstLow := true } : State).rstLow = true ∧ (0x1FFFC#17).toNat % 4 = 0 ∧ State.reset.dmem = [] := by decide

/-- A running NOP with two steps left meets the invariant, and a step is taken. -/
theorem witness_inv : ∃ s t : State, s.Inv ∧ step s = .next t := by
  refine ⟨{ State.reset with phase := .run 0 2 }, _, ⟨by decide, ⟨rfl, rfl⟩, ⟨?_, ?_, ?_, ?_⟩, ⟨List.Pairwise.nil, ?_⟩, rfl, ?_, ?_⟩, rfl⟩
  · intro _; rfl
  · intro _; rfl
  · intro _; rfl
  · intro h; cases h
  · intro c h; cases h
  · intro c left h; cases h; decide
  · intro h; cases h

theorem witness_command_runs :
    (∃ t, runCommand 0 State.reset = .next t) ∧ decode 0 ≠ .ok .keyclr ∧ (∃ t, runCommand 2 State.reset = .next t) :=
  ⟨⟨_, rfl⟩, by decide, ⟨_, rfl⟩⟩

theorem witness_not_named :
    mayWriteChain .nop = false ∧ mayWriteBlock .nop = false ∧ mayWriteHash .nop = false ∧ mayWriteResLen .nop = false ∧
    usesKey .nop = false ∧ writesTo .pad (stage 0 5 0 []) = (5, 11) ∧ ∃ t, exec .pad (stage 0 5 0 []) = .next t :=
  ⟨rfl, rfl, rfl, rfl, rfl, by decide, ⟨_, rfl⟩⟩

theorem witness_hmac_runs : ∃ t, exec (.hmac .md5) State.reset = .next t := ⟨_, rfl⟩

theorem witness_schedule_inputs :
    (16#32 = 16 ∨ 16#32 = 24 ∨ 16#32 = 32) ∧ (List.replicate 8 (0 : Word)).length = 8 ∧
    (List.replicate 60 (0 : Word)).length = 4 * (14 + 1) := by decide

theorem witness_key_ready :
    let s := withAes State.reset
    s.keyReady = some s.keyFilled ∧ s.keyFilled.keyReady = some s.keyFilled ∧ s.keyFilled.nr.toNat < 11 ∧ 10 ≤ s.keyFilled.nr.toNat ∧
    s.KeyCacheOk := ⟨rfl, rfl, by decide, by decide, ⟨rfl, rfl⟩⟩

theorem witness_lazy_key :
    let s := withAes (stage 0 16 32 [])
    usesKey .cbcEncBuf = true ∧ regionsBeforeKey .cbcEncBuf s = true ∧ s.keyValid = false ∧ s.keyLen = 16 ∧
    s.keyFilled.keyValid = true ∧ usesKey (.hash .md5) = false := ⟨rfl, by decide, rfl, rfl, rfl, rfl⟩

theorem witness_zero_chain :
    let s := { withAes State.reset with chain := ⟨0, 0, 0, 0⟩ }
    s.keyReady = some s.keyFilled ∧ s.chain = ⟨0, 0, 0, 0⟩ := ⟨rfl, rfl⟩

/-- A whole block, in place and apart, and the empty buffer. -/
theorem witness_cbc_buffer :
    let m := List.replicate 16 (7 : Byte)
    let s := withAes (stage 0 16 0 m)
    let r := withAes (stage 0 16 16 m)
    s.regionOk s.src s.srcL = true ∧ s.regionOk s.dst s.srcL = true ∧ s.keyReady = some s.keyFilled ∧ s.srcL % 16 = 0 ∧
    inPlaceOrApart s.src s.srcL s.dst s.srcL ∧ s.memRead s.src s.srcL = .ok m ∧
    r.regionOk r.dst r.srcL = true ∧ inPlaceOrApart r.src r.srcL r.dst r.srcL := by
  refine ⟨by decide, by decide, rfl, by decide, ?_, by rfl, by decide, ?_⟩
  · unfold inPlaceOrApart; decide
  · unfold inPlaceOrApart; decide

/-- A partial overlap, for CBC_ENC_BUF, CBC_DEC_BUF and ENCRYPT. -/
theorem witness_partial_overlap :
    let m := List.replicate 16 (7 : Byte)
    let s := withAes (stage 0 16 4 m)
    regionsBeforeKey .cbcEncBuf s = true ∧ regionsBeforeKey .encrypt s = true ∧ s.keyReady = some s.keyFilled ∧
    s.memRead s.src s.srcL = .ok m ∧ s.srcL % 16 = 0 ∧ overlapsApart s.src s.srcL s.dst s.srcL ∧
    overlapsApart s.src s.srcL s.dst (s.srcL + (16 - s.srcL % 16)) := by
  refine ⟨by decide, by decide, rfl, by rfl, by decide, ?_, ?_⟩
  · unfold overlapsApart; decide
  · unfold overlapsApart; decide

/-- The ciphertext of "abc" (R534), with a legal last byte 13, in place and partially overlapped. -/
theorem witness_decrypt :
    let m := store16 ⟨0xf327e729, 0x0b9b923d, 0x29d949db, 0x2c9f75cc⟩
    let s := withAes (stage 0 16 0 m)
    let r := withAes (stage 0 16 4 m)
    s.memRead s.src s.srcL = .ok m ∧ s.srcL ≠ 0 ∧ ((cbcPlain s.keyFilled m).getLastD 0).toNat = 13 ∧
    inPlaceOrApart s.src s.srcL s.dst s.srcL ∧ regionsBeforeKey .decrypt r = true ∧ overlapsApart r.src r.srcL r.dst r.srcL := by
  refine ⟨by rfl, by decide, by decide +kernel, ?_, by decide, ?_⟩
  · unfold inPlaceOrApart; decide
  · unfold overlapsApart; decide

theorem witness_pad :
    (stage 0 5 0 []).regionOk 0 (5 + (16 - 5 % 16)) = true ∧ (stage 65532 5 0 []).regionOk 65532 (5 + (16 - 5 % 16)) = false ∧
    (stage 0 5 0 []).cfg.legal = true := by decide

theorem witness_unpad :
    let s := stage 0 3 0 [1, 2, 3]
    s.regionOk s.src s.srcL = true ∧ s.srcL ≠ 0 ∧ s.dmemByte (s.src + s.srcL - 1) = some 3 ∧
    (stage 2 3 0 []).regionOk 2 3 = false := by decide

theorem witness_encrypt :
    let m : List Byte := [0x61, 0x62, 0x63]
    let s := withAes (stage 0 3 32 m)
    s.cfg.legal = true ∧ s.KeyCacheOk ∧ s.keyReady = some s.keyFilled ∧ s.regionOk s.src s.srcL = true ∧
    s.regionOk s.dst (s.srcL + (16 - s.srcL % 16)) = true ∧ s.memRead s.src s.srcL = .ok m ∧
    inPlaceOrApart s.src s.srcL s.dst (s.srcL + (16 - s.srcL % 16)) ∧ s.regionOk 64 16 = true ∧ inPlaceOrApart s.dst 16 64 16 := by
  refine ⟨by decide, ⟨rfl, rfl⟩, rfl, by decide, by decide, by rfl, ?_, by decide, ?_⟩
  · unfold inPlaceOrApart; decide
  · unfold inPlaceOrApart; decide

/-- One part of 64 bytes and a rest of 3; and lengths and regions the hash commands refuse. -/
theorem witness_hash :
    let m := List.replicate 67 (1 : Byte)
    let s := stage 0 67 0 m
    s.cfg.legal = true ∧ s.regionOk s.src s.srcL = true ∧ s.regionOk s.dst (digestLen .sha256) = true ∧
    s.memRead s.src s.srcL = .ok m ∧ (∀ n ∈ [64], n % 64 = 0) ∧ [64].sum ≤ s.srcL ∧ s.srcL % 64 ≠ 0 ∧
    (stage 0 64 0 m).srcL % 64 = 0 ∧ (stage 0 64 0 m).memRead 0 64 = .ok (List.replicate 64 1) ∧
    (stage 0 0 65532 []).regionOk 65532 (digestLen .md5) = false := by
  refine ⟨by decide, by decide, by decide, by rfl, by decide, by decide, by decide, by decide, by rfl, by decide⟩

/-- A password, a salt and a key of four words; and a destination past the end of DMEM. -/
theorem witness_kdf :
    let s := { stage 0 2 16 [1, 2, 3, 4, 5, 6, 7, 8] with auxAddr := 0, auxLen := 4, saltAddr := 4, saltLen := 4, kdfWords := 4 }
    s.regionOk s.src s.srcL = true ∧ s.regionOk s.aux s.auxL = true ∧ s.regionOk s.salt s.saltL = true ∧
    s.regionOk s.dst (4 * s.kdfWords.toNat) = true ∧ s.regionOk s.dst 32 = true ∧ s.memRead s.src s.srcL = .ok [1, 2] ∧
    s.memRead s.aux s.auxL = .ok [1, 2, 3, 4] ∧ s.memRead s.salt s.saltL = .ok [5, 6, 7, 8] ∧ s.regionOk s.dst 65536 = false := by
  refine ⟨by decide, by decide, by decide, by decide, by decide, by rfl, by rfl, by rfl, by decide⟩

end Sys2Proof.Tests
end

section
/-! Commands: what a command may change. The completion record aside, a command changes the fields its rule names and no other
(10_state.md sections 2 and 3), and DMEM in its output region only (70_reset_and_hazards.md R902). -/

namespace Sys2Proof.Machine

/-! ### What belongs to the host -/

/-- A state cut down to what no command writes (10_state.md R106, R117, R118): the parameters, CTRL, the descriptors, the reset
input, the last value read and the pending inputs and turns. Every other field is at its reset value. -/
def State.hostPart (s : State) : State :=
  { State.reset with
    cfg := s.cfg, ctrl := s.ctrl, srcAddr := s.srcAddr, srcLen := s.srcLen, dstAddr := s.dstAddr, auxAddr := s.auxAddr,
    auxLen := s.auxLen, saltAddr := s.saltAddr, saltLen := s.saltLen, iter := s.iter, kdfWords := s.kdfWords,
    rstLow := s.rstLow, dmemEpoch := s.dmemEpoch, rdata := s.rdata, inputs := s.inputs, turns := s.turns }

/-- The output region depends on the parameters and the descriptors alone. -/
theorem writesTo_hostPart (i : Instr) (s : State) : writesTo i s.hostPart = writesTo i s := by cases i <;> rfl

theorem writesTo_congr {s u : State} (h : u.hostPart = s.hostPart) (i : Instr) : writesTo i u = writesTo i s := by
  rw [← writesTo_hostPart, h, writesTo_hostPart]

theorem keyReady_hostPart {s u : State} (h : s.keyReady = some u) : u.hostPart = s.hostPart := by
  obtain ⟨-, rfl⟩ | ⟨-, -, rfl⟩ := keyReady_some.1 h <;> rfl

/-! ### The frame of a command -/

/-- What the work of command `i` leaves of a state, before its completion record: every field its rule does not name. -/
structure CommandFrame (i : Instr) (s u : State) : Prop where
  host : u.hostPart = s.hostPart
  keyRegs : i ≠ .keyclr → u.keyLen = s.keyLen ∧ u.key = s.key
  chain : mayWriteChain i = false → u.chain = s.chain
  block : mayWriteBlock i = false → u.block = s.block
  hash : mayWriteHash i = false → u.hstate = s.hstate ∧ u.hlen = s.hlen
  resLen : mayWriteResLen i = false → u.resLen = s.resLen
  result : (∀ a b, i ≠ .gfmul a b) → u.result = s.result
  cache : usesKey i = false → i ≠ .keyexp → i ≠ .keyclr →
    u.rk = s.rk ∧ u.irk = s.irk ∧ u.keyValid = s.keyValid ∧ u.nk = s.nk ∧ u.nr = s.nr
  outside : ∀ o, ¬ ((writesTo i s).1 ≤ o ∧ o < (writesTo i s).1 + (writesTo i s).2) → u.dmemByte o = s.dmemByte o

namespace CommandFrame

variable {i : Instr} {s u t : State}

theorem refl (i : Instr) (s : State) : CommandFrame i s s where
  host := rfl
  keyRegs _ := ⟨rfl, rfl⟩
  chain _ := rfl
  block _ := rfl
  hash _ := ⟨rfl, rfl⟩
  resLen _ := rfl
  result _ := rfl
  cache _ _ _ := ⟨rfl, rfl, rfl, rfl, rfl⟩
  outside _ _ := rfl

theorem trans (h : CommandFrame i s u) (g : CommandFrame i u t) : CommandFrame i s t where
  host := g.host.trans h.host
  keyRegs hi := ⟨(g.keyRegs hi).1.trans (h.keyRegs hi).1, (g.keyRegs hi).2.trans (h.keyRegs hi).2⟩
  chain hi := (g.chain hi).trans (h.chain hi)
  block hi := (g.block hi).trans (h.block hi)
  hash hi := ⟨(g.hash hi).1.trans (h.hash hi).1, (g.hash hi).2.trans (h.hash hi).2⟩
  resLen hi := (g.resLen hi).trans (h.resLen hi)
  result hi := (g.result hi).trans (h.result hi)
  cache hi he hc := by
    obtain ⟨hrk, hirk, hv, hnk, hnr⟩ := h.cache hi he hc
    obtain ⟨grk, girk, gv, gnk, gnr⟩ := g.cache hi he hc
    exact ⟨grk.trans hrk, girk.trans hirk, gv.trans hv, gnk.trans hnk, gnr.trans hnr⟩
  outside o ho := (g.outside o (by rwa [writesTo_congr h.host])).trans (h.outside o ho)

/-! Each update of the state is a frame of the commands whose rule names what it changes. -/

theorem withChain (hi : mayWriteChain i = true) (q : Quad) : CommandFrame i s (s.withChain q) :=
  { refl i s with chain := fun h => absurd h (by simp [hi]) }

theorem withBlock (hi : mayWriteBlock i = true) (q : Quad) : CommandFrame i s (s.withBlock q) :=
  { refl i s with block := fun h => absurd h (by simp [hi]) }

theorem withHash (hi : mayWriteHash i = true) (h : Oct) (n : BitVec 64) : CommandFrame i s (s.withHash h n) :=
  { refl i s with hash := fun h => absurd h (by simp [hi]) }

theorem withResLen (hi : mayWriteResLen i = true) (n : Nat) : CommandFrame i s (s.withResLen n) :=
  { refl i s with resLen := fun h => absurd h (by simp [hi]) }

theorem gfmul (a b : Byte) (r : Word) : CommandFrame (.gfmul a b) s { s with result := r } :=
  { refl _ s with result := fun h => absurd rfl (h a b) }

theorem keyFilled (hi : usesKey i = true ∨ i = .keyexp) : CommandFrame i s s.keyFilled :=
  { refl i s with cache := fun h he => absurd hi (by simp [h, he]) }

theorem keyCleared : CommandFrame .keyclr s s.keyCleared :=
  { refl _ s with
    keyRegs := fun h => absurd rfl h
    cache := fun _ _ h => absurd rfl h }

theorem keyReady (hi : usesKey i = true) (h : s.keyReady = some u) : CommandFrame i s u := by
  obtain ⟨-, rfl⟩ | ⟨-, -, rfl⟩ := keyReady_some.1 h
  · exact refl i _
  · exact keyFilled (.inl hi)

theorem memWrite {a : Nat} {vs : List Byte} (h : writesTo i s = (a, vs.length)) : CommandFrame i s (s.memWrite a vs) :=
  { refl i s with outside := fun o ho => by rw [State.dmemByte_memWrite, if_neg (by rwa [h] at ho)] }

theorem region {b n : Nat} (hi : mayWriteChain i = true) (hw : writesTo i s = (b, n)) (h : RegionFrame s t b n) :
    CommandFrame i s t := by
  rw [h.same]
  exact { refl i s with
    chain := fun hc => absurd hc (by simp [hi])
    outside := fun o ho => by rw [← h.same]; exact h.outside o (by rwa [hw] at ho) }

end CommandFrame

/-! ### How a command ends -/

/-- How command `i` ends: with success after work in its frame, or with an error after work in its frame that has left RES_LEN
alone (60_exceptions.md R805, R806). -/
inductive Ended (i : Instr) (s : State) : State → Prop
  | success {u : State} (h : CommandFrame i s u) : Ended i s (u.record none)
  | error {u : State} (e : Err) (h : CommandFrame i s u) (hr : u.resLen = s.resLen) : Ended i s (u.record (some e))

/-- Every next state of a result is an end of command `i`. -/
def Ends (i : Instr) (s : State) (r : Result) : Prop := ∀ t, r = .next t → Ended i s t

section

variable {i : Instr} {s u : State}

theorem Ends.finish (h : CommandFrame i s u) : Ends i s (.next u.finish) := by
  rintro _ ⟨⟩; exact .success h

theorem Ends.raise (i : Instr) (s : State) (e : Err) : Ends i s (.next (s.raise e)) := by
  rintro _ ⟨⟩; exact .error e (.refl i s) rfl

/-- The key made ready leaves RES_LEN alone, so what ends a command on the ready state ends it on the first one. -/
theorem Ended.of_keyReady {t : State} (hi : usesKey i = true) (h : s.keyReady = some u) (hu : Ended i u t) : Ended i s t := by
  have hf := CommandFrame.keyReady hi h
  have hr : u.resLen = s.resLen := by rw [keyReady_frame h]
  cases hu with
  | success g => exact .success (hf.trans g)
  | error e g gr => exact .error e (hf.trans g) (gr.trans hr)

theorem withRegion_ends {a n : Nat} {k : Result} (hk : s.regionOk a n = true → Ends i s k) : Ends i s (withRegion s a n k) := by
  intro t h
  obtain ⟨hr, h⟩ | ⟨-, rfl⟩ := withRegion_next.1 h
  · exact hk hr t h
  · exact Ends.raise i s _ _ rfl

theorem withBytes_ends {a n : Nat} {k : List Byte → Result} (hk : ∀ vs, s.memRead a n = .ok vs → Ends i s (k vs)) :
    Ends i s (withBytes s a n k) := by
  intro t h
  obtain ⟨vs, hv, h⟩ := withBytes_next.1 h
  exact hk vs hv t h

theorem withKey_ends {k : State → Result} (hi : usesKey i = true) (hk : ∀ u, s.keyReady = some u → Ends i u (k u)) :
    Ends i s (withKey s k) := by
  intro t h
  obtain ⟨u, hu, h⟩ | ⟨-, rfl⟩ := withKey_next.1 h
  · exact .of_keyReady hi hu (hk u hu t h)
  · exact Ends.raise i s _ _ rfl

theorem withRound_ends {r : Nat} {k : State → Result} (hi : usesKey i = true) (hk : ∀ u, Ends i u (k u)) :
    Ends i s (withRound s r k) := by
  refine withKey_ends hi (fun u _ => ?_)
  split
  · exact Ends.raise i u _
  · exact hk u

theorem withUnpad_ends {n len : Nat} {k : Nat → Result} (hk : ∀ n, Ends i s (k n)) : Ends i s (withUnpad s n len k) := by
  intro t h
  obtain ⟨-, h⟩ | ⟨-, rfl⟩ := withUnpad_next.1 h
  · exact hk n t h
  · exact Ends.raise i s _ _ rfl

theorem withCbcBuffer_ends {k : State → Result} (hi : usesKey i = true)
    (hk : ∀ u, u.regionOk u.dst u.srcL = true → u.srcL % 16 = 0 → Ends i u (k u)) : Ends i s (withCbcBuffer s k) := by
  refine withRegion_ends fun _ => withRegion_ends fun hd => withKey_ends hi fun u hu => ?_
  have hh := keyReady_hostPart hu
  split
  · exact Ends.raise i u _
  · next hl =>
    have hr := congrArg (fun v : State => v.regionOk v.dst v.srcL) hh
    exact hk u (hr.trans hd) (by simpa using hl)

theorem withLastPlain_ends {k : Byte → Result} (hk : ∀ v, Ends i s (k v)) : Ends i s (withLastPlain s k) := by
  intro t h
  obtain ⟨_, -, h⟩ := withLastPlain_next.1 h
  obtain ⟨-, h⟩ | ⟨-, _, -, h⟩ := withPrevLast_next.1 h
  · exact hk _ t h
  · exact hk _ t h

theorem withHashOperands_ends {alg : Alg} {k : List Byte → Result}
    (hk : ∀ m, s.regionOk s.dst (digestLen alg) = true → Ends i s (k m)) : Ends i s (withHashOperands alg s k) :=
  withRegion_ends fun _ => withRegion_ends fun hd => withBytes_ends fun m _ => hk m hd

theorem withKdfOperands_ends {k : List Byte → List Byte → Result}
    (hk : ∀ p salt, s.regionOk s.dst s.kdfLen = true → Ends i s (k p salt)) : Ends i s (withKdfOperands s k) := by
  intro t h
  obtain ⟨-, -, hd, ⟨-, h⟩ | ⟨-, p, salt, -, -, h⟩⟩ | ⟨-, rfl⟩ := withKdfOperands_next.1 h
  · exact hk [] [] hd t h
  · exact hk p salt hd t h
  · exact Ends.raise i s _ _ rfl

end

end Sys2Proof.Machine
end

section
/-! Each command ends in its frame, and what follows for the registers and DMEM (10_state.md R111 to R118, R130). -/

namespace Sys2Proof.Machine

section

variable {i : Instr} {s u : State}

/-- Work that keeps the frame, then RES_LEN, ends a command that writes RES_LEN. -/
theorem Ends.finish_resLen (hi : mayWriteResLen i = true) (h : CommandFrame i s u) (n : Nat) :
    Ends i s (.next (u.withResLen n).finish) :=
  .finish (h.trans (.withResLen hi n))

/-- A run of blocks over the output region, then RES_LEN, ends a command (44_cbc.md R504, R505). -/
theorem andThen_region_ends {r : Result} {b n : Nat} (hc : mayWriteChain i = true) (hl : mayWriteResLen i = true)
    (hw : writesTo i s = (b, n)) (hr : ∀ v, r = .next v → RegionFrame s v b n) (m : Nat) :
    Ends i s (andThen r (fun v => .next (v.withResLen m).finish)) := by
  intro t h
  obtain ⟨v, hv, h⟩ := andThen_next.1 h
  exact Ends.finish_resLen hl (.region hc hw (hr v hv)) m t h

theorem execCbcEncBuf_ends : Ends .cbcEncBuf s (execCbcEncBuf s) := by
  refine withCbcBuffer_ends rfl fun u hd hl => andThen_region_ends rfl rfl (by exact if_pos hd) (fun v hv => ?_) _
  have hf := cbcEncLoop_frame _ _ _ _ _ _ hv
  rwa [show 16 * (u.srcL / 16) = u.srcL by omega] at hf

/-- The decryption loop covers the output region of CBC_DEC_BUF and DECRYPT. -/
theorem cbcDecLoop_region {free : Bool} {a b n : Nat} (hn : n % 16 = 0) (h : cbcDecLoop free (n / 16) a b s = .next u) :
    RegionFrame s u b n := by
  have hf := cbcDecLoop_frame _ _ _ _ _ _ h
  rwa [show 16 * (n / 16) = n by omega] at hf

theorem execCbcDecBuf_ends : Ends .cbcDecBuf s (execCbcDecBuf s) :=
  withCbcBuffer_ends rfl fun _ hd hl => andThen_region_ends rfl rfl (by exact if_pos hd) (fun _ => cbcDecLoop_region hl) _

theorem execDecrypt_ends : Ends .decrypt s (execDecrypt s) := by
  refine withCbcBuffer_ends rfl fun u hd hl => ?_
  split
  · exact Ends.raise _ u _
  · exact withLastPlain_ends fun v => withUnpad_ends fun n =>
      andThen_region_ends rfl rfl (by exact if_pos hd) (fun _ => cbcDecLoop_region hl) _

theorem execEncrypt_ends : Ends .encrypt s (execEncrypt s) := by
  refine withRegion_ends fun _ => withRegion_ends fun hd => withKey_ends rfl fun u hu => withBytes_ends fun vs _ => ?_
  have hh := keyReady_hostPart hu
  have hw : writesTo .encrypt u = (u.dst, s.srcL + padCount s.srcL) := by
    have hdst := congrArg State.dst hh
    rw [writesTo_congr hh]
    exact (if_pos hd).trans (Prod.ext hdst.symm rfl)
  refine Ends.finish_resLen rfl (.region rfl hw ?_) _
  have hf := cbcEncString_frame (partialOverlap u.src u.srcL u.dst (s.srcL + padCount s.srcL))
    ((s.srcL + padCount s.srcL) / 16) u.dst (vs ++ padBytes u.srcL) u
  rwa [show 16 * ((s.srcL + padCount s.srcL) / 16) = s.srcL + padCount s.srcL by
    have := (padCount_bounds s.srcL).2.2; omega] at hf

theorem execPad_ends : Ends .pad s (execPad s) :=
  withRegion_ends fun hd => Ends.finish_resLen rfl (.memWrite (by rw [padBytes_length]; exact if_pos hd)) _

theorem execUnpad_ends : Ends .unpad s (execUnpad s) := by
  refine withRegion_ends fun _ => ?_
  split
  · exact Ends.raise _ s _
  · exact withBytes_ends fun _ _ => withUnpad_ends fun _ => Ends.finish_resLen rfl (.refl _ s) _

theorem execHashUpdate_ends (alg : Alg) : Ends (.hashUpdate alg) s (execHashUpdate alg s) := by
  refine withRegion_ends fun _ => ?_
  split
  · exact Ends.raise _ s _
  · exact withBytes_ends fun _ _ => .finish (.withHash rfl _ _)

/-- HASH_FINAL's effect keeps the frame of both commands that have it (48_hash_hmac.md R636, R637). -/
theorem hashFinished_frame {alg : Alg} (hh : mayWriteHash i = true) (hl : mayWriteResLen i = true)
    (hw : writesTo i s = (s.dst, digestLen alg)) (m : List Byte) : CommandFrame i s (s.hashFinished alg m) := by
  refine (CommandFrame.withHash hh _ _).trans ((CommandFrame.memWrite ?_).trans (.withResLen hl _))
  rw [digest_length]
  exact (writesTo_congr (by rfl) i).trans hw

theorem execHashFinal_ends (alg : Alg) : Ends (.hashFinal alg) s (execHashFinal alg s) :=
  withHashOperands_ends fun m hd => .finish (hashFinished_frame rfl rfl (by exact if_pos hd) m)

theorem execHash_ends (alg : Alg) : Ends (.hash alg) s (execHash alg s) :=
  withHashOperands_ends fun m hd => .finish
    ((CommandFrame.withHash rfl _ _).trans (hashFinished_frame rfl rfl (by exact if_pos hd) m))

/-- A result delivered to an output region of its length (48_hash_hmac.md R652, 49_kdf.md R681). -/
theorem deliver_ends {r : List Byte} {n : Nat} (hl : mayWriteResLen i = true) (hr : r.length = n)
    (hw : writesTo i s = (s.dst, n)) : Ends i s (.next (s.deliver r n).finish) :=
  Ends.finish_resLen hl (.memWrite (by rw [hr]; exact hw)) n

theorem execHmac_ends (alg : Alg) : Ends (.hmac alg) s (execHmac alg s) :=
  withRegion_ends fun _ => withRegion_ends fun _ => withRegion_ends fun hd =>
    withBytes_ends fun _ _ => withBytes_ends fun _ _ => deliver_ends rfl (hmacOf_length alg _ _) (by exact if_pos hd)

end

/-! ### The lengths of derived keys (49_kdf.md R680, R682) -/

theorem xorBytes_length (a b : List Byte) : (xorBytes a b).length = min a.length b.length := by simp [xorBytes]

theorem pbkdf2Iterate_length (alg : Alg) (p : List Byte) (n : Nat) : ∀ u t : List Byte, t.length = digestLen alg →
    (pbkdf2Iterate alg p n u t).length = digestLen alg := by
  induction n with
  | zero => intro u t h; exact h
  | succ n ih => intro u t h; exact ih _ _ (by simp [xorBytes_length, h])

theorem pbkdf2Block_length (alg : Alg) (p salt : List Byte) (c i : Nat) :
    (pbkdf2Block alg p salt c i).length = digestLen alg :=
  pbkdf2Iterate_length alg p _ _ _ (hmacOf_length alg _ _)

theorem pbkdf2Blocks_length (alg : Alg) (p salt : List Byte) (c n : Nat) : ∀ i,
    (pbkdf2Blocks alg p salt c n i).length = n * digestLen alg := by
  induction n with
  | zero => simp [pbkdf2Blocks]
  | succ n ih => intro i; rw [pbkdf2Blocks, List.length_append, pbkdf2Block_length, ih, Nat.succ_mul, Nat.add_comm]

theorem rehash_length (alg : Alg) (n : Nat) : ∀ d : List Byte, d.length = digestLen alg →
    (rehash alg n d).length = digestLen alg := by
  induction n with
  | zero => intro d h; exact h
  | succ n ih => intro d _; exact ih _ (hashOf_length alg d)

theorem evpkdfBlocks_length (alg : Alg) (p salt : List Byte) (c n : Nat) : ∀ prev,
    (evpkdfBlocks alg p salt c n prev).length = n * digestLen alg := by
  induction n with
  | zero => simp [evpkdfBlocks]
  | succ n ih =>
    intro prev
    rw [evpkdfBlocks, List.length_append, rehash_length alg _ _ (hashOf_length alg _), ih, Nat.succ_mul, Nat.add_comm]

/-- The digest blocks of a derived key hold at least its length. -/
theorem le_kdfBlocks_mul (alg : Alg) (n : Nat) : n ≤ kdfBlocks alg n * digestLen alg := by
  have hd := digestLen_pos alg
  have hm := Nat.lt_mul_div_succ (n + digestLen alg - 1) hd
  rw [Nat.mul_add_one, Nat.mul_comm] at hm
  unfold kdfBlocks
  omega

@[simp] theorem pbkdf2Of_length (alg : Alg) (p salt : List Byte) (c n : Nat) : (pbkdf2Of alg p salt c n).length = n := by
  simp [pbkdf2Of, pbkdf2Blocks_length, le_kdfBlocks_mul]

@[simp] theorem evpkdfOf_length (alg : Alg) (p salt : List Byte) (c n : Nat) : (evpkdfOf alg p salt c n).length = n := by
  simp [evpkdfOf, evpkdfBlocks_length, le_kdfBlocks_mul]

theorem execPbkdf2_ends {s : State} (alg : Alg) : Ends (.pbkdf2 alg) s (execPbkdf2 alg s) :=
  withKdfOperands_ends fun _ _ hd => deliver_ends rfl (pbkdf2Of_length alg _ _ _ _) (by exact if_pos hd)

theorem execEvpkdf_ends {s : State} (alg : Alg) : Ends (.evpkdf alg) s (execEvpkdf alg s) :=
  withKdfOperands_ends fun _ _ hd => deliver_ends rfl (evpkdfOf_length alg _ _ _ _) (by exact if_pos hd)

theorem execKeyexp_ends (s : State) : Ends .keyexp s (execKeyexp s) := by
  unfold execKeyexp State.generate
  cases keyLenOk s.keyLen with
  | true => exact .finish (.keyFilled (.inr rfl))
  | false => exact Ends.raise _ s _

/-- Every command ends in its frame. -/
theorem exec_ends (i : Instr) (s : State) : Ends i s (exec i s) := by
  cases i with
  | nop => exact .finish (.refl _ s)
  | keyexp => exact execKeyexp_ends s
  | keyclr => exact .finish .keyCleared
  | aesEnc => exact withKey_ends rfl fun _ _ => .finish (.withBlock rfl _)
  | aesDec => exact withKey_ends rfl fun _ _ => .finish (.withBlock rfl _)
  | subbytes => exact .finish (.withBlock rfl _)
  | invsubbytes => exact .finish (.withBlock rfl _)
  | shiftrows => exact .finish (.withBlock rfl _)
  | invshiftrows => exact .finish (.withBlock rfl _)
  | mixcolumns => exact .finish (.withBlock rfl _)
  | invmixcolumns => exact .finish (.withBlock rfl _)
  | addrk r => exact withRound_ends rfl fun _ => .finish (.withBlock rfl _)
  | addirk r => exact withRound_ends rfl fun _ => .finish (.withBlock rfl _)
  | gfmul a b => exact .finish (.gfmul a b _)
  | cbcEncBlk => exact withKey_ends rfl fun _ _ => .finish ((CommandFrame.withChain rfl _).trans (.withBlock rfl _))
  | cbcDecBlk => exact withKey_ends rfl fun _ _ => .finish ((CommandFrame.withChain rfl _).trans (.withBlock rfl _))
  | cbcEncBuf => exact execCbcEncBuf_ends
  | cbcDecBuf => exact execCbcDecBuf_ends
  | pad => exact execPad_ends
  | unpad => exact execUnpad_ends
  | encrypt => exact execEncrypt_ends
  | decrypt => exact execDecrypt_ends
  | hashInit alg => exact .finish (.withHash rfl _ _)
  | hashUpdate alg => exact execHashUpdate_ends alg
  | hashFinal alg => exact execHashFinal_ends alg
  | hash alg => exact execHash_ends alg
  | hmac alg => exact execHmac_ends alg
  | pbkdf2 alg => exact execPbkdf2_ends alg
  | evpkdf alg => exact execEvpkdf_ends alg

/-- Settles O28: each register's clause is the frame's, under the completion record. -/
theorem onlyNamedCommandsWrite : Obligations.OnlyNamedCommandsWrite := by
  intro i s t h
  cases exec_ends i s t h with
  | success hf =>
    have hr : mayWriteResLen i = false ∨ false = true → _ := fun h => hf.resLen (by simpa using h)
    exact ⟨hf.chain, hf.block, hf.hash, hr, hf.result, hf.cache, hf.outside⟩
  | error e hf hr => exact ⟨hf.chain, hf.block, hf.hash, fun _ => hr, hf.result, hf.cache, hf.outside⟩

/-- What no command word writes: the host's part of the state, and the key registers but for KEYCLR (10_state.md R118). -/
theorem runCommand_host {c : Word} {s t : State} (h : runCommand c s = .next t) :
    t.hostPart = s.hostPart ∧ (decode c ≠ .ok .keyclr → t.keyLen = s.keyLen ∧ t.key = s.key) := by
  unfold runCommand at h
  split at h
  · obtain ⟨⟩ := h
    exact ⟨rfl, fun _ => ⟨rfl, rfl⟩⟩
  · next i hi =>
    have hne : decode c ≠ .ok .keyclr → i ≠ .keyclr := by rw [hi]; exact mt (congrArg Except.ok)
    cases exec_ends i s t h with
    | success hf => exact ⟨hf.host, fun hc => hf.keyRegs (hne hc)⟩
    | error e hf _ => exact ⟨hf.host, fun hc => hf.keyRegs (hne hc)⟩

/-- Settles O27: every field it names is one of the host's part or a key register. -/
theorem engineWritesNoDescriptor : Obligations.EngineWritesNoDescriptor := by
  intro c s t h
  obtain ⟨hh, hk⟩ := runCommand_host h
  have f {α : Type} (g : State → α) : g t.hostPart = g s.hostPart := congrArg g hh
  exact ⟨f State.srcAddr, f State.srcLen, f State.dstAddr, f State.auxAddr, f State.auxLen, f State.saltAddr, f State.saltLen,
    f State.iter, f State.kdfWords, f State.ctrl, hk, f State.cfg, f State.rstLow, f State.dmemEpoch, f State.rdata,
    f State.inputs, f State.turns⟩

end Sys2Proof.Machine
end

section
/-! Bus: host reads and writes of the register offsets, and the step of a running engine (10_state.md section 2,
20_memory.md R201, R215). -/

namespace Sys2Proof.Machine

/-! ### The step of a running engine -/

theorem nextAgent_engine {s : State} {c : Word} {left : Nat} (hp : s.phase = .run c left)
    (ht : s.turns = [] ∨ s.turns.head? = some .engine) : nextAgent s = .engine := by
  unfold nextAgent
  split
  · next h => simpa [h] using ht
  · simp [State.busy, hp]

theorem step_engine {s : State} (h : nextAgent s = .engine) : step s = engineStep { s with turns := s.turns.tail } := by
  rw [step, h]; rfl

theorem engineStep_run {s : State} {c : Word} {left : Nat} (hp : s.phase = .run c left) :
    engineStep s = if left ≤ 1 then runCommand c s else .next { s with phase := .run c (left - 1) } := by
  simp only [engineStep, hp]

theorem runCommand_ok {c : Word} {i : Instr} (h : decode c = .ok i) (s : State) : runCommand c s = exec i s := by
  simp only [runCommand, h]

/-- The state withFetchWord makes for a whole word: it is issued with one step left, and the engine moves next. -/
theorem withFetchWord_word (s : State) (c : Word) :
    s.withFetchWord 32 c.toNat = { s.issueWith c 1 with turns := .engine :: s.turns, rstLow := false } := by
  rw [State.withFetchWord, Nat.mod_eq_of_lt c.isLt, BitVec.ofNat_toNat, BitVec.setWidth_eq]

/-- Settles O5, by the engine's step at a count of at most one and of at least two. -/
theorem stepRunsDecodedCommand : Obligations.StepRunsDecodedCommand := by
  intro s c i left hd
  refine ⟨fun hp hl ht => ?_, fun hp hl ht => ?_, ?_⟩
  · rw [step_engine (nextAgent_engine hp ht), engineStep_run (by exact hp), if_pos hl, runCommand_ok hd]
  · rw [step_engine (nextAgent_engine hp ht), engineStep_run (by exact hp), if_neg (by omega)]
  · rw [withFetchWord_word, step_engine rfl, engineStep_run rfl, if_pos le_rfl, runCommand_ok hd]
    rfl

/-- Settles O26: no key, no record, an empty DMEM and an idle engine. -/
theorem resetMeetsInv : Obligations.ResetMeetsInv where
  cfg := by decide
  key := ⟨rfl, rfl⟩
  record := ⟨fun h => absurd h (by decide), fun _ => rfl, fun _ => rfl, fun h => absurd h (by decide)⟩
  dmem := ⟨.nil, fun _ h => absurd h List.not_mem_nil⟩
  engine := ⟨rfl, fun _ _ h => Phase.noConfusion h, fun _ => rfl⟩

/-! ### The address map -/

/-- The register offsets are below 0x0B4, and none names a DMEM word. -/
theorem csr_entries : ∀ p ∈ csrControl ++ csrData ++ csrDescriptors, p.1 < 0x0B4 ∧ ∀ j, p.2 ≠ .dmem j := by
  simp [csrControl, csrData, csrDescriptors]

theorem toNat_offset {o : Nat} (h : o < 0x20000) : (BitVec.ofNat 17 o).toNat = o := by
  rw [BitVec.toNat_ofNat, Nat.mod_eq_of_lt h]

theorem offset_aligned {o : Nat} (h : o % 4 = 0) : (BitVec.ofNat 17 o).toNat % 4 = 0 := by
  rw [BitVec.toNat_ofNat]; omega

theorem locate_rk {o : Nat} (h : 0x100 ≤ o ∧ o < 0x1F0) : locate (BitVec.ofNat 17 o) = .rk ((o - 0x100) / 4) := by
  unfold locate
  rw [toNat_offset (by omega), if_neg (by omega), if_pos h]

theorem locate_irk {o : Nat} (h : 0x200 ≤ o ∧ o < 0x2F0) : locate (BitVec.ofNat 17 o) = .irk ((o - 0x200) / 4) := by
  unfold locate
  rw [toNat_offset (by omega), if_neg (by omega), if_neg (by omega), if_pos h]

theorem locate_reserved {o : Nat} (h : reservedOffset o) : locate (BitVec.ofNat 17 o) = .reserved := by
  unfold reservedOffset at h
  have hl : (csrControl ++ csrData ++ csrDescriptors).lookup o = none :=
    List.lookup_eq_none_iff.2 fun p hp => by have := (csr_entries p hp).1; simp; omega
  unfold locate
  rw [toNat_offset (by omega), if_neg (by omega), if_neg (by omega), if_neg (by omega), hl]
  rfl

/-- Only the upper half of the aperture names DMEM words (20_memory.md R215). -/
theorem locate_ne_dmem {o : Nat} (h : o < 0x10000) (j : Nat) : locate (BitVec.ofNat 17 o) ≠ .dmem j := by
  unfold locate
  rw [toNat_offset (by omega), if_neg (by omega)]
  split_ifs
  · nofun
  · nofun
  · cases hl : (csrControl ++ csrData ++ csrDescriptors).lookup o with
    | none => nofun
    | some l =>
      obtain ⟨l₁, l₂, he, -⟩ := List.lookup_eq_some_iff.1 hl
      exact (csr_entries (o, l) (by rw [he]; simp)).2 j

/-! ### Host accesses outside DMEM -/

section

variable {s : State} {a : BitVec 17} {l : Loc}

theorem busy_of_idle (hp : s.phase = .idle) : s.busy = false := by simp [State.busy, hp]

theorem hostRead_locate (hr : s.rstLow = false) (ha : a.toNat % 4 = 0) (hl : locate a = l) : hostRead s a = readAt s l := by
  simp [hostRead, hr, ha, hl]

theorem hostWrite_locate (hr : s.rstLow = false) (ha : a.toNat % 4 = 0) (hl : locate a = l) (v : Word) :
    hostWrite s a v = .next (writeAt s l v) := by
  simp [hostWrite, hr, ha, hl]

/-- While BUSY = 0 a location outside DMEM reads its value. -/
theorem readAt_idle (hp : s.phase = .idle) (hl : ∀ j, l ≠ .dmem j) : readAt s l = .next (s.answer (readLoc s l)) := by
  have hb := busy_of_idle hp
  unfold readAt
  split
  · next j => exact absurd rfl (hl j)
  · simp [hb]
  · simp [hb]

/-- A location no command writes reads its value whether or not BUSY, STATUS and DMEM apart (70_reset_and_hazards.md R912). -/
theorem readAt_steady (hv : l.volatile = false) (hs : l ≠ .status) (hl : ∀ j, l ≠ .dmem j) :
    readAt s l = .next (s.answer (readLoc s l)) := by
  unfold readAt
  split
  · next j => exact absurd rfl (hl j)
  · exact absurd rfl hs
  · simp [hv]

/-- While BUSY = 0 a write to a location with no write rule of its own is writeLoc's. -/
theorem writeAt_idle (hp : s.phase = .idle) (hc : l ≠ .cmd) (ht : l ≠ .ctrl) (hi : l ≠ .irqStatus) (v : Word) :
    writeAt s l v = writeLoc s l v := by
  unfold writeAt
  split
  · exact absurd rfl hc
  · exact absurd rfl ht
  · exact absurd rfl hi
  · simp [busy_of_idle hp]

theorem hostRead_idle (hr : s.rstLow = false) (hp : s.phase = .idle) (ha : a.toNat % 4 = 0) (hl : locate a = l)
    (hd : ∀ j, l ≠ .dmem j) : hostRead s a = .next { s with rdata := readLoc s l } := by
  rw [hostRead_locate hr ha hl, readAt_idle hp hd]; rfl

theorem hostRead_steady (hr : s.rstLow = false) (ha : a.toNat % 4 = 0) (hl : locate a = l) (hv : l.volatile = false)
    (hs : l ≠ .status) (hd : ∀ j, l ≠ .dmem j) : hostRead s a = .next { s with rdata := readLoc s l } := by
  rw [hostRead_locate hr ha hl, readAt_steady hv hs hd]; rfl

theorem hostWrite_idle (hr : s.rstLow = false) (hp : s.phase = .idle) (ha : a.toNat % 4 = 0) (hl : locate a = l)
    (hc : l ≠ .cmd) (ht : l ≠ .ctrl) (hi : l ≠ .irqStatus) (v : Word) : hostWrite s a v = .next (writeLoc s l v) := by
  rw [hostWrite_locate hr ha hl, writeAt_idle hp hc ht hi]

end

/-- Settles O8, by the address map's entry for CMD and the two cases of its write. -/
theorem cmdWriteIssuesOrOverruns : Obligations.CmdWriteIssuesOrOverruns := by
  intro s c hr
  have hw : hostWrite s 0x008 c = .next (writeCmd s c) := hostWrite_locate hr rfl (l := .cmd) rfl c
  refine ⟨fun hp => ⟨Config.latency c s, ?_⟩, fun d left hp => ?_, ?_⟩
  · rw [hw, writeCmd, busy_of_idle hp]; rfl
  · rw [hw, writeCmd]; simp [State.busy, hp, ovrBit]
  · exact hostRead_steady hr rfl (l := .cmd) rfl rfl nofun nofun

/-- A 3-bit group is non-zero exactly when one of its bits is 1. -/
theorem ne_zero_iff_bit (x : BitVec 3) :
    x ≠ 0#3 ↔ x.getLsbD 0 = true ∨ x.getLsbD 1 = true ∨ x.getLsbD 2 = true := by revert x; decide

/-- Settles O14: irq bit by bit, and CTRL and IRQ_STATUS accesses, none of which asks for BUSY. -/
theorem interruptControl : Obligations.InterruptControl := by
  refine ⟨fun s => ?_, fun s v hr => ⟨?_, fun hv => ?_, ?_, ?_⟩⟩
  · simp only [State.irq, decide_eq_true_eq, ne_zero_iff_bit, BitVec.getLsbD_and, Bool.and_eq_true]
  · exact hostWrite_locate hr rfl (l := .irqStatus) rfl v
  · rw [hostWrite_locate hr rfl (l := .ctrl) rfl v, writeAt, writeCtrl, hv]; rfl
  · exact hostRead_steady hr rfl (l := .irqStatus) rfl rfl nofun nofun
  · exact hostRead_steady hr rfl (l := .ctrl) rfl rfl nofun nofun

/-! ### Register groups -/

theorem locate_key : ∀ i < 8, locate (BitVec.ofNat 17 (0x020 + 4 * i)) = .key i := by decide

theorem locate_chain : ∀ i < 4, locate (BitVec.ofNat 17 (0x040 + 4 * i)) = .chain i := by decide

theorem locate_block : ∀ i < 4, locate (BitVec.ofNat 17 (0x050 + 4 * i)) = .block i := by decide

theorem locate_hstate : ∀ i < 8, locate (BitVec.ofNat 17 (0x060 + 4 * i)) = .hstate i := by decide

/-- A key register is KEY_LEN or one of KEY0..KEY7, and a write of it leaves the key cache invalid (10_state.md R110). -/
theorem writeLoc_key_keyReady {l : Loc} (hl : l = .keyLen ∨ ∃ i, l = .key i) (s : State) (v : Word) :
    (writeLoc s l v).keyReady = (writeLoc s l v).generate := by
  obtain rfl | ⟨i, rfl⟩ := hl <;> rfl

/-- Settles O15: an accepted key write is writeLoc's, which stores the value and clears the cache flags. -/
theorem acceptedKeyWriteInvalidatesCache : Obligations.AcceptedKeyWriteInvalidatesCache := by
  intro s v hr hp
  have hlen : hostWrite s (BitVec.ofNat 17 0x018) v = .next (writeLoc s .keyLen v) :=
    hostWrite_idle hr hp rfl (l := .keyLen) rfl nofun nofun nofun v
  have hkey : ∀ i < 8, hostWrite s (BitVec.ofNat 17 (0x020 + 4 * i)) v = .next (writeLoc s (.key i) v) := fun i hi =>
    hostWrite_idle hr hp (offset_aligned (by omega)) (locate_key i hi) nofun nofun nofun v
  refine ⟨hlen, hkey, fun t a ha ht => ?_⟩
  obtain rfl | ⟨i, hi, rfl⟩ := ha
  · obtain ⟨⟩ := hlen.symm.trans ht
    exact writeLoc_key_keyReady (.inl rfl) s v
  · obtain ⟨⟩ := (hkey i hi).symm.trans ht
    exact writeLoc_key_keyReady (.inr ⟨i, rfl⟩) s v

theorem toNat_withHlenLo (h : BitVec 64) (v : Word) : (withHlenLo h v).toNat = h.toNat / 2 ^ 32 * 2 ^ 32 + v.toNat := by
  have hv := v.isLt
  have hh := h.isLt
  rw [withHlenLo, BitVec.toNat_append, ← Nat.shiftLeft_add_eq_or_of_lt hv, BitVec.extractLsb'_toNat,
    Nat.shiftRight_eq_div_pow, Nat.shiftLeft_eq]
  omega

theorem toNat_withHlenHi (h : BitVec 64) (v : Word) : (withHlenHi h v).toNat = v.toNat * 2 ^ 32 + h.toNat % 2 ^ 32 := by
  have hl := (h.extractLsb' 0 32).isLt
  rw [withHlenHi, BitVec.toNat_append, ← Nat.shiftLeft_add_eq_or_of_lt hl, BitVec.extractLsb'_toNat,
    Nat.shiftRight_zero, Nat.shiftLeft_eq]

/-- The location of every listed register reads the listed value. -/
theorem readLoc_registerValues (s : State) :
    ∀ p ∈ registerValues s, readLoc s (locate (BitVec.ofNat 17 p.1)) = p.2 := by
  have h : (registerValues s).map (fun p => readLoc s (locate (BitVec.ofNat 17 p.1))) =
    (registerValues s).map Prod.snd := rfl
  exact List.map_inj_left.1 h

theorem registerValues_offset (s : State) : ∀ p ∈ registerValues s, p.1 % 4 = 0 ∧ p.1 < 0x10000 := by
  simp [registerValues]

theorem hostRead_register {s : State} (hr : s.rstLow = false) (hp : s.phase = .idle) {p : Nat × Word}
    (h : p ∈ registerValues s) : hostRead s (BitVec.ofNat 17 p.1) = .next { s with rdata := p.2 } := by
  obtain ⟨ha, hlt⟩ := registerValues_offset s p h
  rw [hostRead_idle hr hp (offset_aligned ha) rfl (locate_ne_dmem hlt), readLoc_registerValues s p h]

theorem csrDescriptors_entries : ∀ p ∈ csrDescriptors, (BitVec.ofNat 17 p.1).toNat % 4 = 0 ∧
    locate (BitVec.ofNat 17 p.1) = p.2 ∧ p.2 ≠ .cmd ∧ p.2 ≠ .ctrl ∧ p.2 ≠ .irqStatus := by decide

theorem hostWrite_descriptor {s : State} (hr : s.rstLow = false) (hp : s.phase = .idle) (v : Word) {o : Nat} {l : Loc}
    (h : (o, l) ∈ csrDescriptors) : hostWrite s (BitVec.ofNat 17 o) v = .next (writeLoc s l v) := by
  obtain ⟨ha, hl, hc, ht, hi⟩ := csrDescriptors_entries _ h
  exact hostWrite_idle hr hp ha hl hc ht hi v

/-- Settles O18, by the address map's entry for each register. -/
theorem readWriteRegistersStoreEveryValue : Obligations.ReadWriteRegistersStoreEveryValue := by
  refine ⟨fun s v hr hp => ?_, by decide⟩
  have hd {o : Nat} {l : Loc} (h : (o, l) ∈ csrDescriptors) := hostWrite_descriptor hr hp v h
  refine ⟨hd (l := .srcAddr) (by decide), hd (l := .srcLen) (by decide), hd (l := .dstAddr) (by decide),
    hd (l := .auxAddr) (by decide), hd (l := .auxLen) (by decide), hd (l := .saltAddr) (by decide),
    hd (l := .saltLen) (by decide), hd (l := .iter) (by decide), hd (l := .kdfWords) (by decide), ?_, ?_, ?_, ?_, ?_, ?_⟩
  · exact fun i h => hostWrite_idle hr hp (offset_aligned (by omega)) (locate_chain i h) nofun nofun nofun v
  · exact fun i h => hostWrite_idle hr hp (offset_aligned (by omega)) (locate_block i h) nofun nofun nofun v
  · exact fun i h => hostWrite_idle hr hp (offset_aligned (by omega)) (locate_hstate i h) nofun nofun nofun v
  · exact ⟨_, hostWrite_idle hr hp rfl (l := .hlenLo) rfl nofun nofun nofun v, toNat_withHlenLo s.hlen v⟩
  · exact ⟨_, hostWrite_idle hr hp rfl (l := .hlenHi) rfl nofun nofun nofun v, toNat_withHlenHi s.hlen v⟩
  · exact fun p h _ => hostRead_register hr hp h

/-! ### The STATUS word -/

section

variable (s : State) (k : Bool × BitVec 4 × BitVec 4)

/-- The single-bit fields of the STATUS word (10_state.md R105). -/
theorem statusWith_bits : (statusWith s k).getLsbD 0 = s.busy ∧ (statusWith s k).getLsbD 1 = s.done ∧
    (statusWith s k).getLsbD 2 = s.err ∧ (statusWith s k).getLsbD 3 = k.1 := by
  simp only [statusWith, BitVec.getLsbD_append]
  simp

/-- The wider fields of the STATUS word, and the reserved ones (10_state.md R105). -/
theorem statusWith_groups : (statusWith s k).extractLsb' 4 4 = 0 ∧ (statusWith s k).extractLsb' 8 4 = s.errCode ∧
    (statusWith s k).extractLsb' 12 4 = 0 ∧ (statusWith s k).extractLsb' 16 4 = k.2.1 ∧
    (statusWith s k).extractLsb' 20 4 = k.2.2 ∧ (statusWith s k).extractLsb' 24 8 = 0 := by
  simp (disch := omega) only [statusWith, BitVec.extractLsb'_append_eq_of_le, BitVec.extractLsb'_append_eq_of_add_le]
  simp

/-- The key fields one by one: NR and NK read 0 while KEY_VALID is 0. -/
theorem keyFields_eq : keyFields s = (s.keyValid, if s.keyValid then s.nr else 0, if s.keyValid then s.nk else 0) := by
  unfold keyFields
  cases s.keyValid <;> rfl

end

/-! ### The windows and the ignored writes -/

/-- A write to a location that ignores it changes nothing while BUSY = 0 (10_state.md R103, R132). -/
theorem hostWrite_ignored {s : State} {o : Nat} (hr : s.rstLow = false) (hp : s.phase = .idle) (ho : o % 4 = 0)
    (h : reservedOffset o ∨ readOnlyOffset o) (v : Word) : hostWrite s (BitVec.ofNat 17 o) v = .next s := by
  have ha := offset_aligned ho
  obtain h | rfl | rfl | rfl | rfl | rfl | h | h := h
  · exact hostWrite_idle hr hp ha (locate_reserved h) nofun nofun nofun v
  · exact hostWrite_idle hr hp ha (l := .id) rfl nofun nofun nofun v
  · exact hostWrite_idle hr hp ha (l := .version) rfl nofun nofun nofun v
  · exact hostWrite_idle hr hp ha (l := .status) rfl nofun nofun nofun v
  · exact hostWrite_idle hr hp ha (l := .resLen) rfl nofun nofun nofun v
  · exact hostWrite_idle hr hp ha (l := .result) rfl nofun nofun nofun v
  · exact hostWrite_idle hr hp ha (locate_rk h) nofun nofun nofun v
  · exact hostWrite_idle hr hp ha (locate_irk h) nofun nofun nofun v

/-- Settles O21, by the address map over the whole register half of the aperture. -/
theorem registerReadsAndIgnoredWrites : Obligations.RegisterReadsAndIgnoredWrites := by
  intro s hr hp
  refine ⟨fun p h => hostRead_register hr hp h, fun i hi => ?_, fun i hi => ?_, fun o ho h => ?_,
    fun o v ho h => hostWrite_ignored hr hp ho h v, statusWord s, ?_, ?_⟩
  · rw [hostRead_idle hr hp (offset_aligned (by omega)) (locate_rk (by omega)) nofun,
      show (0x100 + 4 * i - 0x100) / 4 = i by omega]
    rfl
  · rw [hostRead_idle hr hp (offset_aligned (by omega)) (locate_irk (by omega)) nofun,
      show (0x200 + 4 * i - 0x200) / 4 = i by omega]
    rfl
  · exact hostRead_idle hr hp (offset_aligned ho) (locate_reserved h) nofun
  · exact hostRead_idle hr hp rfl (l := .status) rfl nofun
  · have hb := statusWith_bits s (keyFields s)
    have hg := statusWith_groups s (keyFields s)
    rw [keyFields_eq] at hb hg
    rw [statusWord, keyFields_eq]
    obtain ⟨hbusy, hdone, herr, hkey⟩ := hb
    exact ⟨hbusy.trans (busy_of_idle hp), hdone, herr, hkey, hg⟩

end Sys2Proof.Machine
end

section
/-! HostTurns: the host's turn, the frame of host reads, and the DMEM window (20_memory.md R201, R202, R214). -/

namespace Sys2Proof.Machine

/-! ### Whose turn it is, and the host's -/

theorem nextAgent_of_head {s : State} {g : Agent} (h : s.turns.head? = some g) : nextAgent s = g := by
  obtain ⟨gs, hs⟩ := List.head?_eq_some_iff.1 h
  rw [nextAgent, hs]

theorem nextAgent_of_idle {s : State} (ht : s.turns = []) (hp : s.phase = .idle) : nextAgent s = .host := by
  simp [nextAgent, ht, busy_of_idle hp]

theorem step_host {s : State} (h : nextAgent s = .host) : step s = hostTurn { s with turns := s.turns.tail } := by
  rw [step, h]; rfl

theorem engineStep_idle {s : State} (hp : s.phase = .idle) : engineStep s = .next s := by
  simp only [engineStep, hp]

theorem hostTurn_nil {s : State} (h : s.inputs = []) : hostTurn s = .next s := by
  simp only [hostTurn, h]

theorem hostTurn_cons {s : State} {x : Input} {rest : List Input} (h : s.inputs = x :: rest) :
    hostTurn s = hostInput { s with inputs := rest } x := by
  simp only [hostTurn, h]

/-- A POLL whose read answers goes on, or stays the oldest pending input (30_encoding.md R307). -/
theorem hostInput_poll {s t : State} {a : BitVec 17} (h : hostRead s a = .next t) (mask v : Word) :
    hostInput s (.poll a mask v) = .next (pollAgain t (.poll a mask v :: s.inputs) mask v) := by
  simp only [hostInput, h, andThen]

theorem hostWrite_misaligned {a : BitVec 17} (ha : a.toNat % 4 ≠ 0) (s : State) (v : Word) :
    hostWrite s a v = .refused .misalignedTransaction := if_pos ha

theorem hostRead_misaligned {a : BitVec 17} (ha : a.toNat % 4 ≠ 0) (s : State) :
    hostRead s a = .refused .misalignedTransaction := if_pos ha

/-- Settles O7: the turn is taken off the list, and the host's turn is its oldest input's. -/
theorem hostTurnTakesOldestInput : Obligations.HostTurnTakesOldestInput := by
  intro s rest a v mask
  refine ⟨fun ht => step_host (nextAgent_of_head ht), fun ht hp => ?_, fun ht hp => ?_, hostTurn_nil, hostTurn_cons,
    hostTurn_cons, fun t hi hr => ?_, fun ha => ⟨hostWrite_misaligned ha s v, hostRead_misaligned ha s⟩,
    hostTurn_cons, hostTurn_cons⟩
  · rw [step_host (nextAgent_of_idle ht hp), ht, List.tail_nil, ← ht]
  · rw [step_engine (nextAgent_of_head ht), engineStep_idle (by exact hp)]
  · rw [hostTurn_cons hi, hostInput_poll hr]; rfl

/-! ### The frame of host reads -/

/-- A next state of the result differs from `s` in the value read and in the count of free draws only (20_memory.md R214). -/
def ReadOnly (s : State) (r : Result) : Prop := ∀ t, r = .next t → t = { s with rdata := t.rdata, draws := t.draws }

theorem readOnly_answer (s : State) (v : Word) : ReadOnly s (.next (s.answer v)) := by rintro _ ⟨⟩; rfl

theorem readOnly_answerFree (s : State) : ReadOnly s (.next s.answerFree) := by rintro _ ⟨⟩; rfl

theorem readOnly_answerBusyStatus (s : State) : ReadOnly s (.next s.answerBusyStatus) := by rintro _ ⟨⟩; rfl

theorem readDmem_readOnly (s : State) (j : Nat) : ReadOnly s (readDmem s j) := by
  unfold readDmem
  split_ifs
  · exact readOnly_answer s 0
  · exact readOnly_answerFree s
  · intro t h
    obtain ⟨vs, -, h⟩ := withBytes_next.1 h
    exact readOnly_answer s _ t h

theorem readAt_readOnly (s : State) (l : Loc) : ReadOnly s (readAt s l) := by
  unfold readAt
  split
  · exact readDmem_readOnly s _
  · split
    · exact readOnly_answerBusyStatus s
    · exact readOnly_answer s _
  · split
    · exact readOnly_answerFree s
    · exact readOnly_answer s _

/-- Settles O17: every answer of a host read is a value read and at most one free draw. -/
theorem hostReadsHaveNoSideEffect : Obligations.HostReadsHaveNoSideEffect := by
  intro s t a
  unfold hostRead
  split_ifs
  · nofun
  · exact readOnly_answerFree s t
  · exact readAt_readOnly s _ t

/-! ### The DMEM window -/

theorem locate_dmem {j : Nat} (h : j < 16384) : locate (BitVec.ofNat 17 (0x10000 + 4 * j)) = .dmem j := by
  unfold locate
  rw [toNat_offset (by omega), if_pos (by omega), show (0x10000 + 4 * j - 0x10000) / 4 = j by omega]

theorem readDmem_word {s : State} {j : Nat} (hp : s.phase = .idle) (hj : j < s.cfg.dmemWords) {vs : List Byte}
    (h : s.memRead (4 * j) 4 = .ok vs) : readDmem s j = .next { s with rdata := beWord vs 0 } := by
  rw [readDmem, if_neg (by omega), if_neg (by simp [busy_of_idle hp]), withBytes_ok h]; rfl

theorem memRead_four {s : State} {a : Nat} {b0 b1 b2 b3 : Byte} (h0 : s.dmemByte a = some b0)
    (h1 : s.dmemByte (a + 1) = some b1) (h2 : s.dmemByte (a + 2) = some b2) (h3 : s.dmemByte (a + 3) = some b3) :
    s.memRead a 4 = .ok [b0, b1, b2, b3] := by
  simp only [State.memRead, h0, h1, h2, h3]

/-- A byte string written changes its own bytes only (20_memory.md R209). -/
theorem storesOnly_memWrite (s : State) (a : Nat) (vs : List Byte) : StoresOnly s (s.memWrite a vs) a vs :=
  s.dmemByte_memWrite a vs

/-- Settles O19, by the address map's upper half on both sides of DMEM_WORDS. -/
theorem dmemWindow : Obligations.DmemWindow := by
  intro s j v hr hp hj
  have ha : (BitVec.ofNat 17 (0x10000 + 4 * j)).toNat % 4 = 0 := offset_aligned (by omega)
  have hl := locate_dmem hj
  have hw : hostWrite s (BitVec.ofNat 17 (0x10000 + 4 * j)) v = .next (writeLoc s (.dmem j) v) :=
    hostWrite_idle hr hp ha hl nofun nofun nofun v
  have hd : hostRead s (BitVec.ofNat 17 (0x10000 + 4 * j)) = readDmem s j := hostRead_locate hr ha hl
  rw [hw, hd]
  refine ⟨fun hin => ⟨⟨s.memWrite (4 * j) (be32 v), ?_, rfl, storesOnly_memWrite s _ _⟩, fun b0 b1 b2 b3 h0 h1 h2 h3 => ?_⟩,
    fun hout => ⟨?_, ?_⟩⟩
  · rw [writeLoc, if_pos hin]
  · rw [readDmem_word hp hin (memRead_four h0 h1 h2 h3)]; rfl
  · rw [writeLoc, if_neg (by omega)]
  · rw [readDmem, if_pos hout]; rfl

end Sys2Proof.Machine
end

section
/-! Overlap: block-sequential commands whose output partially overlaps their input (20_memory.md R210, log entry 7), and the last
plaintext byte that DECRYPT checks (45_pkcs7.md R535). -/

namespace Sys2Proof.Machine

/-! ### Reading a region -/

theorem memRead_congr {s t : State} (h : ∀ o, t.dmemByte o = s.dmemByte o) (n : Nat) :
    ∀ a, t.memRead a n = s.memRead a n := by
  induction n with
  | zero => exact fun _ => rfl
  | succ n ih => intro a; simp only [State.memRead, h, ih]

/-- KeyReady changes no DMEM byte. -/
theorem keyReady_dmemByte {s u : State} (h : s.keyReady = some u) (o : Nat) : u.dmemByte o = s.dmemByte o := by
  rw [keyReady_frame h]; rfl

/-- A part of a region that can be read is that part of its bytes. -/
theorem memRead_sub {s : State} {a n : Nat} {m : List Byte} (h : s.memRead a n = .ok m) {j k : Nat} (hjk : j + k ≤ n) :
    s.memRead (a + j) k = .ok ((m.drop j).take k) := by
  obtain ⟨hl, hb⟩ := (s.memRead_ok n a m).1 h
  refine (s.memRead_ok k _ _).2 ⟨by simp; omega, fun i hi => ?_⟩
  rw [Nat.add_assoc, hb _ (by omega), List.getElem?_take_of_lt hi, List.getElem?_drop]

theorem memRead_ne_none {s : State} {a n : Nat} {m : List Byte} (h : s.memRead a n = .ok m) {k : Nat} (hk : k < n) :
    s.dmemByte (a + k) ≠ none := by
  obtain ⟨hl, hb⟩ := (s.memRead_ok n a m).1 h
  rw [hb k hk, List.getElem?_eq_getElem (by omega)]
  exact Option.some_ne_none _

/-! ### Output of free draws -/

/-- What a run of blocks with free output leaves of a state: the `n` bytes from `b` on are the next `n` free draws, no other byte
changes, and no field but DMEM, CHAIN and the count of draws does. -/
structure FreeOutput (s t : State) (b n : Nat) : Prop where
  same : t = { s with dmem := t.dmem, chain := t.chain, draws := s.draws + n }
  bytes : ∀ o, t.dmemByte o = if b ≤ o ∧ o < b + n then some (Config.freeByte (s.draws + (o - b))) else s.dmemByte o

namespace FreeOutput

variable {s t u : State} {b n : Nat}

theorem refl (s : State) (b : Nat) : FreeOutput s s b 0 where
  same := rfl
  bytes o := (if_neg (by omega)).symm

theorem draws (h : FreeOutput s t b n) : t.draws = s.draws + n := by rw [h.same]

theorem trans {k : Nat} (h : FreeOutput s u b n) (g : FreeOutput u t (b + n) k) : FreeOutput s t b (n + k) where
  same := by rw [g.same, h.draws, Nat.add_assoc, h.same]
  bytes o := by
    rw [g.bytes, h.draws]
    by_cases ho : b + n ≤ o ∧ o < b + n + k
    · rw [if_pos ho, if_pos (by omega), show s.draws + n + (o - (b + n)) = s.draws + (o - b) by omega]
    · rw [if_neg ho, h.bytes]
      exact if_congr (by omega) rfl rfl

theorem unspecify (s : State) (c : Quad) (b n : Nat) : FreeOutput s ((s.withChain c).unspecify b n) b n where
  same := rfl
  bytes o := (s.withChain c).dmemByte_unspecify b n o

theorem ne_none (h : FreeOutput s t b n) {o : Nat} (ho : s.dmemByte o ≠ none) : t.dmemByte o ≠ none := by
  rw [h.bytes]
  split
  · exact Option.some_ne_none _
  · exact ho

end FreeOutput

theorem store16_freeBlock (s : State) (q : Quad) : store16 (s.outBlock true q) = freeBytes s.draws 16 :=
  store16_load16 (freeBytes_length 16 s.draws)

theorem cbcEncTo_free (s : State) (b : Nat) (p : Quad) : FreeOutput s (s.cbcEncTo true b p) b 16 := by
  rw [State.cbcEncTo, store16_freeBlock]
  exact .unspecify s _ b 16

theorem cbcDecTo_free (s : State) (b : Nat) (c : Quad) : FreeOutput s (s.cbcDecTo true b c) b 16 := by
  rw [State.cbcDecTo, store16_freeBlock]
  exact .unspecify s _ b 16

section

variable {loop : Nat → Nat → Nat → State → Result} {store : State → Nat → Quad → State}
  (hzero : ∀ a b s, loop 0 a b s = .next s)
  (hsucc : ∀ n a b s, loop (n + 1) a b s = withBytes s a 16 fun vs => loop n (a + 16) (b + 16) (store s b (load16 vs)))
  (hstore : ∀ s b q, FreeOutput s (store s b q) b 16)

include hzero hsucc hstore

/-- A loop that reads block after block and stores free blocks goes through: a byte it overwrites still holds a value. -/
theorem freeBlocks (n : Nat) : ∀ (a b : Nat) (s : State), (∀ k, k < 16 * n → s.dmemByte (a + k) ≠ none) →
    ∃ t, loop n a b s = .next t ∧ FreeOutput s t b (16 * n) := by
  induction n with
  | zero => exact fun a b s _ => ⟨s, hzero a b s, .refl s b⟩
  | succ n ih =>
    intro a b s h
    obtain ⟨vs, hvs⟩ := s.memRead_total 16 a fun k hk => h k (by omega)
    have hf := hstore s b (load16 vs)
    obtain ⟨t, ht, hg⟩ := ih (a + 16) (b + 16) (store s b (load16 vs)) fun k hk =>
      hf.ne_none (by rw [Nat.add_assoc]; exact h (16 + k) (by omega))
    refine ⟨t, by rw [hsucc, withBytes_ok hvs, ht], ?_⟩
    rw [show 16 * (n + 1) = 16 + 16 * n by omega]
    exact hf.trans hg

/-- The same over a region of whole blocks that can be read. -/
theorem freeRegion {s : State} {a n : Nat} {m : List Byte} (hn : n % 16 = 0) (h : s.memRead a n = .ok m) (b : Nat) :
    ∃ t, loop (n / 16) a b s = .next t ∧ FreeOutput s t b n := by
  have he : 16 * (n / 16) = n := by omega
  have hf := freeBlocks hzero hsucc hstore (n / 16) a b s (by rw [he]; exact fun k hk => memRead_ne_none h hk)
  rwa [he] at hf

end

theorem cbcEncLoop_free {s : State} {a n : Nat} {m : List Byte} (hn : n % 16 = 0) (h : s.memRead a n = .ok m) (b : Nat) :
    ∃ t, cbcEncLoop true (n / 16) a b s = .next t ∧ FreeOutput s t b n :=
  freeRegion (fun _ _ _ => rfl) (fun _ _ _ _ => rfl) cbcEncTo_free hn h b

theorem cbcDecLoop_free {s : State} {a n : Nat} {m : List Byte} (hn : n % 16 = 0) (h : s.memRead a n = .ok m) (b : Nat) :
    ∃ t, cbcDecLoop true (n / 16) a b s = .next t ∧ FreeOutput s t b n :=
  freeRegion (fun _ _ _ => rfl) (fun _ _ _ _ => rfl) cbcDecTo_free hn h b

theorem cbcEncString_free (n : Nat) : ∀ (b : Nat) (m : List Byte) (s : State),
    FreeOutput s (cbcEncString true n b m s) b (16 * n) := by
  induction n with
  | zero => exact fun b _ s => .refl s b
  | succ n ih =>
    intro b m s
    rw [show 16 * (n + 1) = 16 + 16 * n by omega]
    exact (cbcEncTo_free s b (load16 (m.take 16))).trans (ih (b + 16) (m.drop 16) _)

/-! ### The last byte of a CBC plaintext -/

theorem cbcDecBlocks_concat (d : Quad → Quad) (xs : List Quad) (x : Quad) : ∀ c,
    cbcDecBlocks d c (xs ++ [x]) = cbcDecBlocks d c xs ++ [(d x).xor (xs.getLastD c)] := by
  induction xs with
  | nil => exact fun _ => rfl
  | cons y ys ih => intro c; rw [List.cons_append, cbcDecBlocks, ih, List.getLastD_cons]; rfl

/-- The blocks of a byte string and one more whole block. -/
theorem blocksOf_append {m v : List Byte} (hm : m.length % 16 = 0) (hv : v.length = 16) :
    blocksOf (m ++ v) = blocksOf m ++ [load16 v] := by
  have hn : (m ++ v).length / 16 = m.length / 16 + 1 := by rw [List.length_append, hv]; omega
  have hd : 16 * (m.length / 16) = m.length := by omega
  rw [blocksOf, hn, List.range_succ, List.map_append]
  refine congrArg₂ (· ++ ·) (List.map_congr_left fun k hk => ?_) ?_
  · have := List.mem_range.1 hk
    rw [List.drop_append_of_le_length (by omega), List.take_append_of_le_length (by rw [List.length_drop]; omega)]
  · rw [List.map_singleton, hd, List.drop_left, List.take_of_length_le hv.le]

/-- A whole number of blocks, at least one, is the blocks before the last and the last. -/
theorem blocksOf_eq_concat {m : List Byte} (hm : m.length % 16 = 0) (h0 : m.length ≠ 0) :
    blocksOf m = blocksOf (m.take (m.length - 16)) ++ [load16 (m.drop (m.length - 16))] := by
  rw [← blocksOf_append (by rw [List.length_take]; omega) (by rw [List.length_drop]; omega), List.take_append_drop]

theorem byteAt_take {m : List Byte} {i k : Nat} (h : i < k) : byteAt (m.take k) i = byteAt m i := by
  rw [byteAt, byteAt, List.getD_eq_getElem?_getD, List.getD_eq_getElem?_getD, List.getElem?_take_of_lt h]

theorem byteAt_drop (m : List Byte) (j i : Nat) : byteAt (m.drop j) i = byteAt m (j + i) := by
  rw [byteAt, byteAt, List.getD_eq_getElem?_getD, List.getD_eq_getElem?_getD, List.getElem?_drop]

/-- The last byte of a stored block. -/
theorem getLastD_store16 (q : Quad) (bs : List Byte) (d : Byte) :
    (bs ++ store16 q).getLastD d = byteAt (store16 q) 15 := by
  simp [store16, be32, byteAt]

theorem byteAt_store16_xor (p q : Quad) :
    byteAt (store16 (p.xor q)) 15 = byteAt (store16 p) 15 ^^^ byteAt (store16 q) 15 := by
  simp [store16, be32, byteAt, Quad.xor]

/-- The last byte of a whole number of blocks, at least one. -/
theorem blocksOf_last_byte {m : List Byte} (hm : m.length % 16 = 0) (h0 : m.length ≠ 0) (c : Quad) :
    byteAt (store16 ((blocksOf m).getLastD c)) 15 = byteAt m (m.length - 1) := by
  have hv : (m.drop (m.length - 16)).length = 16 := by rw [List.length_drop]; omega
  rw [blocksOf_eq_concat hm h0, List.getLastD_concat, store16_load16 hv, byteAt_drop,
    show m.length - 16 + 15 = m.length - 1 by omega]

/-- The last plaintext byte, from the last ciphertext block and the last byte of the block before it. -/
theorem cbcPlain_last {u : State} {m : List Byte} (hm : m.length % 16 = 0) (h0 : m.length ≠ 0) :
    (cbcPlain u m).getLastD 0 = byteAt (store16 (u.decryptBlock (load16 (m.drop (m.length - 16))))) 15 ^^^
      byteAt (store16 ((blocksOf (m.take (m.length - 16))).getLastD u.chain)) 15 := by
  rw [cbcPlain, blocksOf_eq_concat hm h0, cbcDecBlocks_concat, List.flatMap_append, List.flatMap_singleton, getLastD_store16,
    byteAt_store16_xor]
  rfl

/-- The byte before the last block is CHAIN's last, or is read from the block before (45_pkcs7.md R535). -/
theorem withPrevLast_ok {s : State} {m : List Byte} (h : s.memRead s.src s.srcL = .ok m) (hl : s.srcL % 16 = 0)
    (h0 : s.srcL ≠ 0) (k : Byte → Result) :
    withPrevLast s k = k (byteAt (store16 ((blocksOf (m.take (m.length - 16))).getLastD s.chain)) 15) := by
  have hm := State.memRead_length h
  unfold withPrevLast
  split
  · next he => rw [show m.length - 16 = 0 by omega, List.take_zero]; rfl
  · have ht : (m.take (m.length - 16)).length = s.srcL - 16 := by rw [List.length_take]; omega
    rw [show s.src + s.srcL - 17 = s.src + (s.srcL - 17) by omega, withBytes_ok (memRead_sub h (by omega)),
      blocksOf_last_byte (by omega) (by omega), byteAt_take Nat.one_pos, byteAt_drop, byteAt_take (by omega), ht]
    rfl

/-- DECRYPT's padding check looks at the last byte of the CBC plaintext (45_pkcs7.md R535). -/
theorem withLastPlain_ok {s : State} {m : List Byte} (h : s.memRead s.src s.srcL = .ok m) (hl : s.srcL % 16 = 0)
    (h0 : s.srcL ≠ 0) (k : Byte → Result) : withLastPlain s k = k ((cbcPlain s m).getLastD 0) := by
  have hm := State.memRead_length h
  have hv : (m.drop (s.srcL - 16)).take 16 = m.drop (m.length - 16) := by
    rw [hm, List.take_of_length_le (by rw [List.length_drop]; omega)]
  rw [withLastPlain, show s.src + s.srcL - 16 = s.src + (s.srcL - 16) by omega, withBytes_ok (memRead_sub h (by omega)), hv,
    withPrevLast_ok h hl h0, cbcPlain_last (by omega) (by omega)]

/-! ### The commands -/

/-- The checks of the CBC buffer commands pass, and the command goes on with the key ready (44_cbc.md R504). -/
theorem withCbcBuffer_ok {s u : State} (hs : s.regionOk s.src s.srcL = true) (hd : s.regionOk s.dst s.srcL = true)
    (hk : s.keyReady = some u) (hl : u.srcL % 16 = 0) (k : State → Result) : withCbcBuffer s k = k u := by
  rw [withCbcBuffer, withRegion_ok hs, withRegion_ok hd, withKey_ok hk, if_neg (not_not_intro hl)]

theorem withUnpad_ok {n len : Nat} (h0 : 1 ≤ n) (h16 : n ≤ 16) (hl : n ≤ len) (s : State) (k : Nat → Result) :
    withUnpad s n len k = k n := by
  rw [withUnpad, if_pos]
  simp [unpadOk, h16, hl, Nat.ne_of_gt h0]

theorem partialOverlap_of_overlapsApart {a k b n : Nat} (h : overlapsApart a k b n) (hn : 0 < n) :
    partialOverlap a k b n = true := by
  obtain ⟨hk, hne, hab, hba⟩ := h
  simp [partialOverlap, regionsMeet, hk, hn, hne, hab, hba]

/-- A result completes with `n` bytes of free output at DST and with `r` in RES_LEN, where the key is ready in `u`. -/
def FreeEnd (u : State) (n r : Nat) (x : Result) : Prop :=
  ∃ v, x = .next (v.withResLen r).finish ∧ FreeOutput u v u.dst n

theorem andThen_freeEnd {u : State} {n : Nat} {x : Result} (r : Nat) (h : ∃ v, x = .next v ∧ FreeOutput u v u.dst n) :
    FreeEnd u n r (andThen x fun v => .next (v.withResLen r).finish) := by
  obtain ⟨v, rfl, hv⟩ := h
  exact ⟨v, rfl, hv⟩

/-- The descriptors of a state with the key made ready. -/
theorem keyReady_operands {s u : State} (h : s.keyReady = some u) : u.src = s.src ∧ u.srcL = s.srcL ∧ u.dst = s.dst := by
  rw [keyReady_frame h]; exact ⟨rfl, rfl, rfl⟩

section

variable {s u : State} {m : List Byte} (hs : s.regionOk s.src s.srcL = true) (hk : s.keyReady = some u)
  (hm : u.memRead u.src u.srcL = .ok m)

include hs hk hm

theorem execCbcEncBuf_free (hd : s.regionOk s.dst s.srcL = true) (hl : u.srcL % 16 = 0)
    (ho : overlapsApart u.src u.srcL u.dst u.srcL) : FreeEnd u u.srcL u.srcL (execCbcEncBuf s) := by
  rw [execCbcEncBuf, withCbcBuffer_ok hs hd hk hl, partialOverlap_of_overlapsApart ho ho.1]
  exact andThen_freeEnd _ (cbcEncLoop_free hl hm u.dst)

theorem execCbcDecBuf_free (hd : s.regionOk s.dst s.srcL = true) (hl : u.srcL % 16 = 0)
    (ho : overlapsApart u.src u.srcL u.dst u.srcL) : FreeEnd u u.srcL u.srcL (execCbcDecBuf s) := by
  rw [execCbcDecBuf, withCbcBuffer_ok hs hd hk hl, partialOverlap_of_overlapsApart ho ho.1]
  exact andThen_freeEnd _ (cbcDecLoop_free hl hm u.dst)

theorem execDecrypt_free (hd : s.regionOk s.dst s.srcL = true) (hl : u.srcL % 16 = 0)
    (ho : overlapsApart u.src u.srcL u.dst u.srcL) (h1 : 1 ≤ ((cbcPlain u m).getLastD 0).toNat)
    (h16 : ((cbcPlain u m).getLastD 0).toNat ≤ 16) :
    FreeEnd u u.srcL (u.srcL - ((cbcPlain u m).getLastD 0).toNat) (execDecrypt s) := by
  have hpos := ho.1
  rw [execDecrypt, withCbcBuffer_ok hs hd hk hl, if_neg (by omega), withLastPlain_ok hm hl (by omega),
    withUnpad_ok h1 h16 (by omega), partialOverlap_of_overlapsApart ho hpos]
  exact andThen_freeEnd _ (cbcDecLoop_free hl hm u.dst)

theorem execEncrypt_free {n : Nat} (hn : n = u.srcL + padCount u.srcL) (hd : s.regionOk s.dst n = true)
    (ho : overlapsApart u.src u.srcL u.dst n) : FreeEnd u n n (execEncrypt s) := by
  obtain ⟨-, hlen, -⟩ := keyReady_operands hk
  obtain ⟨hpos, -, hmod⟩ := padCount_bounds u.srcL
  rw [execEncrypt, ← hlen, ← hn, withRegion_ok (by rwa [hlen]), withRegion_ok hd, withKey_ok hk, withBytes_ok hm,
    partialOverlap_of_overlapsApart ho (by omega)]
  refine ⟨_, rfl, ?_⟩
  have hf := cbcEncString_free (n / 16) u.dst (m ++ padBytes u.srcL) u
  rwa [show 16 * (n / 16) = n by omega] at hf

end

/-- What a free end says of the state the command began in: KeyReady leaves DMEM and the count of draws alone. -/
theorem FreeEnd.outcome {s u : State} {n r : Nat} {x : Result} (hk : s.keyReady = some u) (h : FreeEnd u n r x) :
    ∃ t, x = .next t ∧ (∀ k, k < n → t.dmemByte (s.dst + k) = some (Config.freeByte (s.draws + k))) ∧
      (∀ o, ¬ (s.dst ≤ o ∧ o < s.dst + n) → t.dmemByte o = s.dmemByte o) ∧
      t = ({ u with dmem := t.dmem, chain := t.chain, draws := s.draws + n, resLen := BitVec.ofNat 32 r } : State).finish := by
  obtain ⟨v, rfl, hv⟩ := h
  obtain ⟨-, -, hdst⟩ := keyReady_operands hk
  have hdraws : u.draws = s.draws := by rw [keyReady_frame hk]
  have hb (o : Nat) : (v.withResLen r).finish.dmemByte o = v.dmemByte o := rfl
  refine ⟨_, rfl, fun k hlt => ?_, fun o hout => ?_, ?_⟩
  · rw [hb, hv.bytes, hdst, if_pos (by omega), hdraws, Nat.add_sub_cancel_left]
  · rw [hb, hv.bytes, hdst, if_neg hout, keyReady_dmemByte hk]
  · rw [← hdraws]
    exact congrArg (fun w : State => (w.withResLen r).finish) hv.same

/-- Settles O49: the checks pass, every block is read, and every block stored is free. -/
theorem partialOverlapCompletes : Obligations.PartialOverlapCompletes := by
  intro s u m i n hr hk hm hi ho
  obtain ⟨hsrc, hlen, hdst⟩ := keyReady_operands hk
  rw [← memRead_congr (keyReady_dmemByte hk), ← hsrc, ← hlen] at hm
  rw [← hsrc, ← hlen, ← hdst] at ho
  rw [← hlen] at hi ⊢
  apply FreeEnd.outcome hk
  obtain ⟨rfl | rfl, hl, rfl⟩ | ⟨rfl, rfl⟩ | ⟨rfl, hl, rfl, h1, h16⟩ := hi
  all_goals obtain ⟨hs, hd⟩ := (Bool.and_eq_true _ _).mp hr
  · exact execCbcEncBuf_free hs hk hm hd hl ho
  · exact execCbcDecBuf_free hs hk hm hd hl ho
  · exact execEncrypt_free hs hk hm rfl (by rwa [hlen]) ho
  · exact execDecrypt_free hs hk hm hd hl ho h1 h16

end Sys2Proof.Machine
end

section
/-! Encoding: the decoder and the encoder against each other, format by format (30_encoding.md R300 to R306). -/

namespace Sys2Proof

/-! ### Fields and masks of a word -/

/-- A mask of `n` ones from bit `k` up tests the field of that width at that place. -/
theorem and_ones_eq_zero_iff (c : Word) (k n : Nat) (h : k + n ≤ 32) :
    c &&& (BitVec.allOnes n).setWidth 32 <<< k = 0#32 ↔ c.extractLsb' k n = 0#n := by
  refine ⟨fun h0 => ?_, fun h0 => ?_⟩ <;> apply BitVec.eq_of_getLsbD_eq <;> intro j hj
  · have hbit := congrArg (BitVec.getLsbD · (k + j)) h0
    have hlt : k + j < 32 := by omega
    simpa [hlt, hj, show j < 32 by omega] using hbit
  · have hbit := congrArg (BitVec.getLsbD · (j - k)) h0
    by_cases hin : k ≤ j ∧ j - k < n
    · have hj0 : c.getLsbD j = false := by simpa [hin.2, Nat.add_sub_of_le hin.1] using hbit
      simp [hj0]
    · obtain hlt | hge : j < k ∨ n ≤ j - k := by omega
      · simp [hlt]
      · simp [hge]

/-- A field is a concatenation when its upper and its lower part are the two. -/
theorem extractLsb'_eq_append_iff {w m n : Nat} (x : BitVec w) (k : Nat) (hi : BitVec m) (lo : BitVec n) :
    x.extractLsb' k (m + n) = hi ++ lo ↔ x.extractLsb' (k + n) m = hi ∧ x.extractLsb' k n = lo := by
  rw [← BitVec.extractLsb'_append_extractLsb'_eq_extractLsb' rfl]
  refine ⟨fun h => ⟨?_, ?_⟩, fun ⟨hhi, hlo⟩ => by rw [hhi, hlo]⟩
  · simpa only [BitVec.extractLsb'_append_eq_left] using congrArg (BitVec.extractLsb' n m) h
  · simpa only [BitVec.extractLsb'_append_eq_right] using congrArg (BitVec.extractLsb' 0 n) h

theorem mbz_n_iff (i : Instr) (c : Word) : c &&& (Shape.n i).mbz = 0#32 ↔ c.extractLsb' 8 24 = 0#24 :=
  and_ones_eq_zero_iff c 8 24 (by decide)

theorem mbz_h_iff (make : Alg → Instr) (c : Word) : c &&& (Shape.h make).mbz = 0#32 ↔ c.extractLsb' 12 20 = 0#20 :=
  and_ones_eq_zero_iff c 12 20 (by decide)

theorem mbz_r_iff (make : Nat → Instr) (c : Word) :
    c &&& (Shape.r make).mbz = 0#32 ↔ c.extractLsb' 16 16 = 0#16 ∧ c.extractLsb' 8 4 = 0#4 := by
  rw [← and_ones_eq_zero_iff c 16 16 (by decide), ← and_ones_eq_zero_iff c 8 4 (by decide), ← BitVec.or_eq_zero_iff,
    ← BitVec.and_or_distrib_left]
  rfl

theorem mbz_g_iff (make : Byte → Byte → Instr) (c : Word) :
    c &&& (Shape.g make).mbz = 0#32 ↔ c.extractLsb' 8 8 = 0#8 :=
  and_ones_eq_zero_iff c 8 8 (by decide)

/-! ### The operands of a format -/

theorem algOfField_eq_some_iff {f : BitVec 4} {a : Alg} : algOfField f = some a ↔ f = a.field := by
  revert f
  cases a <;> decide

/-- The ALG values the decoder takes are those up to 1 (R302). -/
theorem exists_algOfField_iff {f : BitVec 4} : (∃ a, algOfField f = some a) ↔ f.toNat ≤ 1 := by
  revert f
  simp only [← Option.isSome_iff_exists]
  decide

theorem build_h_ok_iff {make : Alg → Instr} {c : Word} {i : Instr} :
    build (.h make) c = .ok i ↔ ∃ a, algOfField (c.extractLsb' 8 4) = some a ∧ make a = i := by
  simp only [build]
  cases algOfField (c.extractLsb' 8 4) <;> simp

theorem exists_build_h_iff {make : Alg → Instr} {c : Word} :
    (∃ i, build (.h make) c = .ok i) ↔ (c.extractLsb' 8 4).toNat ≤ 1 := by
  simp only [build_h_ok_iff, ← exists_algOfField_iff]
  exact ⟨fun ⟨_, a, ha, _⟩ => ⟨a, ha⟩, fun ⟨a, ha⟩ => ⟨make a, a, ha, rfl⟩⟩

/-- The format stands for the command `i` where bits 31:8 of the word are `x` (R301, R302). -/
def Shape.Spells (x : BitVec 24) (i : Instr) : Shape → Prop
  | .n j => x = 0#24 ∧ j = i
  | .h make => ∃ a : Alg, x = 0#20 ++ a.field ∧ make a = i
  | .r make => ∃ round : BitVec 4, x = 0#16 ++ round ++ 0#4 ∧ make round.toNat = i
  | .g make => ∃ ga gb : Byte, x = gb ++ ga ++ 0#8 ∧ make ga gb = i

/-- The decoder's checks and operands on a word of the format, in one condition on bits 31:8. -/
theorem mbz_build_iff_spells (sh : Shape) (c : Word) (i : Instr) :
    c &&& sh.mbz = 0#32 ∧ build sh c = .ok i ↔ sh.Spells (c.extractLsb' 8 24) i := by
  cases sh with
  | n j => simp only [mbz_n_iff, build, Except.ok.injEq, Shape.Spells]
  | h make =>
    have halg := extractLsb'_eq_append_iff (m := 20) (n := 4) c 8
    simp only [mbz_h_iff, build_h_ok_iff, algOfField_eq_some_iff, Shape.Spells, halg, and_assoc, exists_and_left]
  | r make =>
    have hlow := extractLsb'_eq_append_iff (m := 20) (n := 4) c 8
    have hround := extractLsb'_eq_append_iff (m := 16) (n := 4) c 12
    simp [mbz_r_iff, build, Shape.Spells, hlow, hround, and_assoc]
  | g make =>
    have hlow := extractLsb'_eq_append_iff (m := 16) (n := 8) c 8
    have hbytes := extractLsb'_eq_append_iff (m := 8) (n := 8) c 16
    simp [mbz_g_iff, build, Shape.Spells, hlow, hbytes]

/-! ### The rows of the opcode map -/

/-- The opcodes are pairwise different, so the decoder finds every row of the map (R304). -/
theorem lookup_opcodes_iff {op : Byte} {sh : Shape} : opcodes.lookup op = some sh ↔ (op, sh) ∈ opcodes := by
  constructor
  · intro h
    obtain ⟨l, r, hl, -⟩ := List.lookup_eq_some_iff.mp h
    simp [hl]
  · have hrows : ∀ p ∈ opcodes, opcodes.lookup p.1 = some p.2 := by
      simp [opcodes, opcodesLow, opcodesHigh, List.lookup]
    exact fun h => hrows _ h

/-- R303, in its order: the opcode's row, its must-be-zero bits, its operands. -/
theorem decode_ok_iff {c : Word} {i : Instr} :
    decode c = .ok i ↔ ∃ sh, (c.extractLsb' 0 8, sh) ∈ opcodes ∧ c &&& sh.mbz = 0#32 ∧ build sh c = .ok i := by
  simp only [← lookup_opcodes_iff, decode]
  cases opcodes.lookup (c.extractLsb' 0 8) with
  | none => simp
  | some sh => by_cases hm : c &&& sh.mbz = 0#32 <;> simp [hm]

theorem decode_ok_iff_spells {c : Word} {i : Instr} :
    decode c = .ok i ↔ ∃ sh, (c.extractLsb' 0 8, sh) ∈ opcodes ∧ sh.Spells (c.extractLsb' 8 24) i := by
  simp only [decode_ok_iff, mbz_build_iff_spells]

/-- The encoder agrees with the map: the row of a command's opcode stands for the command with its operand bits. -/
theorem spells_operandBits {i : Instr} (hw : i.wf = true) :
    ∃ sh, opcodes.lookup i.opcode = some sh ∧ sh.Spells i.operandBits i := by
  cases i with
  | addrk round | addirk round =>
    exact ⟨_, rfl, BitVec.ofNat 4 round, rfl, by rw [BitVec.toNat_ofNat, Nat.mod_eq_of_lt (of_decide_eq_true hw)]⟩
  | gfmul ga gb => exact ⟨_, rfl, ga, gb, rfl, rfl⟩
  | hashInit a | hashUpdate a | hashFinal a | hash a | hmac a | pbkdf2 a | evpkdf a => exact ⟨_, rfl, a, rfl, rfl⟩
  | _ => exact ⟨_, rfl, rfl, rfl⟩

/-- The map agrees with the encoder: what a row stands for is well-formed, with the row's opcode and the operand bits. -/
theorem encode_of_spells {op : Byte} {sh : Shape} {x : BitVec 24} {i : Instr} (hm : (op, sh) ∈ opcodes) (h : sh.Spells x i) :
    i.wf = true ∧ i.operandBits = x ∧ i.opcode = op := by
  revert hm
  cases sh with
  | n j =>
    obtain ⟨rfl, rfl⟩ := h
    simp +contextual [opcodes, opcodesLow, opcodesHigh, or_imp, Instr.wf, Instr.operandBits, Instr.opcode]
  | h make =>
    obtain ⟨a, rfl, rfl⟩ := h
    simp +contextual [opcodes, opcodesLow, opcodesHigh, or_imp, Instr.wf, Instr.operandBits, Instr.opcode]
  | r make =>
    obtain ⟨round, rfl, rfl⟩ := h
    simp +contextual [opcodes, opcodesLow, opcodesHigh, or_imp, Instr.wf, Instr.operandBits, Instr.opcode, round.isLt]
  | g make =>
    obtain ⟨ga, gb, rfl, rfl⟩ := h
    simp +contextual [opcodes, opcodesLow, opcodesHigh, Instr.wf, Instr.operandBits, Instr.opcode]

/-- Settles O1: the row of the opcode stands for the command with its operand bits, and both stand in the command's word. -/
theorem decodeInvertsEncode : Obligations.DecodeInvertsEncode := by
  intro i hw
  obtain ⟨hop, hbits⟩ := Laws.OpcodeField.of_encode i
  obtain ⟨sh, hrow, hsp⟩ := spells_operandBits hw
  rw [decode_ok_iff_spells, hop, hbits]
  exact ⟨sh, lookup_opcodes_iff.mp hrow, hsp⟩

/-- Settles O2: the row that decodes the word fixes the command's opcode and its operand bits, which are the word. -/
theorem encodeInvertsDecode : Obligations.EncodeInvertsDecode := by
  intro c i h
  obtain ⟨sh, hrow, hsp⟩ := decode_ok_iff_spells.mp h
  obtain ⟨hw, hbits, hop⟩ := encode_of_spells hrow hsp
  refine ⟨hw, ?_⟩
  rw [encode, hbits, hop]
  exact BitVec.extractLsb'_append_extractLsb' (w := 24) (len := 8)

end Sys2Proof

namespace Sys2Proof.Machine

/-! ### Legal words -/

/-- The formats are the four of R301. -/
theorem exists_shape_iff {P : Shape → Prop} : (∃ sh, P sh) ↔
    (∃ i, P (.n i)) ∨ (∃ make, P (.h make)) ∨ (∃ make, P (.r make)) ∨ ∃ make, P (.g make) := by
  constructor
  · rintro ⟨i | make | make | make, h⟩
    · exact .inl ⟨i, h⟩
    · exact .inr (.inl ⟨make, h⟩)
    · exact .inr (.inr (.inl ⟨make, h⟩))
    · exact .inr (.inr (.inr ⟨make, h⟩))
  · rintro (⟨i, h⟩ | ⟨make, h⟩ | ⟨make, h⟩ | ⟨make, h⟩) <;> exact ⟨_, h⟩

/-- The legal words are those that decode: the rows are gathered by format, and only format H can refuse an operand. -/
theorem legalWord_iff {c : Word} : LegalWord c ↔ ∃ i, decode c = .ok i := by
  simp only [decode_ok_iff]
  rw [exists_comm]
  simp only [exists_and_left, exists_shape_iff, exists_build_h_iff]
  simp [LegalWord, opcodes, opcodesLow, opcodesHigh, Shape.mbz, build, exists_or]

theorem illegalWord_of_decode_ne_ok {c : Word} (h : ∀ i, decode c ≠ .ok i) : IllegalWord c := by
  intro s
  rw [runCommand]
  cases hd : decode c with
  | error e => rfl
  | ok i => exact absurd hd (h i)

/-- Settles O3: the legal words are those that decode, and a word that does not decode raises IllegalCommand. -/
theorem illegalWordsRaiseIllegalCommand : Obligations.IllegalWordsRaiseIllegalCommand := by
  intro c
  rw [legalWord_iff]
  exact ⟨fun ⟨i, h⟩ => ⟨i, h, runCommand_ok h⟩, fun h => illegalWord_of_decode_ne_ok (not_exists.mp h)⟩

/-- Settles O4, by running the decoder on each word. -/
theorem specWordsDecode : Obligations.SpecWordsDecode := by
  unfold Obligations.SpecWordsDecode
  decide

end Sys2Proof.Machine
end

section
/-! Control: every command word completes or faults at an unwritten byte (40_control.md R401, 20_memory.md R203, R211), and NOP
(40_control.md R400). -/

namespace Sys2Proof.Machine

/-! ### The only stop of a command -/

/-- The result is a next state, or the fault at an offset inside DMEM whose byte has no value in `s` (20_memory.md R211). -/
def FaultsOnlyUnwritten (s : State) (r : Result) : Prop :=
  Completes r ∨ ∃ o, r = .fault (.uninitDmem o) ∧ o < s.dmemBytes ∧ s.dmemByte o = none

section

variable {s u : State}

theorem Completes.faultsOnly {r : Result} (h : Completes r) : FaultsOnlyUnwritten s r := .inl h

theorem faultsOnly_next (t : State) : FaultsOnlyUnwritten s (.next t) := .inl (completes_next t)

/-- A fault of the state `u` is one of `s` where `u` has the size of DMEM and every byte with a value that `s` has. -/
theorem FaultsOnlyUnwritten.of_state {r : Result} (h : FaultsOnlyUnwritten u r) (hn : u.dmemBytes = s.dmemBytes)
    (hb : ∀ o, u.dmemByte o = none → s.dmemByte o = none) : FaultsOnlyUnwritten s r := by
  obtain h | ⟨o, rfl, ho, hnone⟩ := h
  · exact .inl h
  · exact .inr ⟨o, rfl, hn ▸ ho, hb o hnone⟩

/-- A region read fails at a byte of the region that has no value. -/
theorem memRead_error {n : Nat} {f : Fault} : ∀ {a : Nat}, s.memRead a n = .error f →
    ∃ o, f = .uninitDmem o ∧ o < a + n ∧ s.dmemByte o = none := by
  induction n with
  | zero => exact fun h => nomatch h
  | succ n ih =>
    intro a h
    rw [State.memRead] at h
    split at h
    · next hb => cases h; exact ⟨a, rfl, by omega, hb⟩
    · split at h
      · cases h
      · next hr =>
        cases h
        obtain ⟨o, hf, ho, hb⟩ := ih hr
        exact ⟨o, hf, by omega, hb⟩

theorem withBytes_faultsOnly {a n : Nat} (hn : a + n ≤ s.dmemBytes) {k : List Byte → Result}
    (hk : ∀ vs, FaultsOnlyUnwritten s (k vs)) : FaultsOnlyUnwritten s (withBytes s a n k) := by
  unfold withBytes
  cases hr : s.memRead a n with
  | ok vs => exact hk vs
  | error f =>
    obtain ⟨o, rfl, ho, hb⟩ := memRead_error hr
    exact .inr ⟨o, rfl, by omega, hb⟩

theorem withBytesIf_faultsOnly (needed : Bool) {a n : Nat} (hn : a + n ≤ s.dmemBytes) {k : List Byte → Result}
    (hk : ∀ vs, FaultsOnlyUnwritten s (k vs)) : FaultsOnlyUnwritten s (withBytesIf needed s a n k) := by
  cases needed with
  | false => exact hk []
  | true => exact withBytes_faultsOnly hn hk

/-- Past CheckRegion the region lies inside DMEM (20_memory.md R206). -/
theorem withRegion_faultsOnly {a n : Nat} {k : Result} (hk : a + n ≤ s.dmemBytes → FaultsOnlyUnwritten s k) :
    FaultsOnlyUnwritten s (withRegion s a n k) := by
  unfold withRegion
  split
  · next h =>
    simp only [State.regionOk, Bool.and_eq_true, decide_eq_true_eq] at h
    exact hk h.2
  · exact faultsOnly_next _

theorem keyReady_dmemBytes (h : s.keyReady = some u) : u.dmemBytes = s.dmemBytes := by rw [keyReady_frame h]; rfl

theorem withKey_faultsOnly {k : State → Result} (hk : ∀ u, s.keyReady = some u → FaultsOnlyUnwritten u (k u)) :
    FaultsOnlyUnwritten s (withKey s k) := by
  cases hu : s.keyReady with
  | none => exact .inl ⟨_, withKey_next.2 (.inr ⟨hu, rfl⟩)⟩
  | some u =>
    rw [withKey_ok hu]
    exact (hk u hu).of_state (keyReady_dmemBytes hu) fun o => by rw [keyReady_dmemByte hu]; exact id

theorem withRound_faultsOnly {r : Nat} {k : State → Result} (hk : ∀ u, Completes (k u)) :
    FaultsOnlyUnwritten s (withRound s r k) := by
  refine withKey_faultsOnly fun u _ => ?_
  split
  · exact faultsOnly_next _
  · exact (hk u).faultsOnly

theorem withUnpad_faultsOnly {n len : Nat} {k : Nat → Result} (hk : ∀ n, FaultsOnlyUnwritten s (k n)) :
    FaultsOnlyUnwritten s (withUnpad s n len k) := by
  unfold withUnpad
  split
  · exact hk n
  · exact faultsOnly_next _

theorem andThen_faultsOnly {r : Result} {k : State → Result} (hr : FaultsOnlyUnwritten s r) (hk : ∀ u, Completes (k u)) :
    FaultsOnlyUnwritten s (andThen r k) := by
  obtain hr | ⟨o, rfl, h⟩ := hr
  · exact .inl (andThen_completes hr hk)
  · exact .inr ⟨o, rfl, h⟩

/-! ### The commands -/

/-- The source region that passed CheckRegion lies inside DMEM once the key is ready too. -/
theorem keyReady_source (h : s.keyReady = some u) (hs : s.src + s.srcL ≤ s.dmemBytes) : u.src + u.srcL ≤ u.dmemBytes := by
  obtain ⟨hsrc, hlen, -⟩ := keyReady_operands h
  rwa [hsrc, hlen, keyReady_dmemBytes h]

theorem withCbcBuffer_faultsOnly {k : State → Result}
    (hk : ∀ u : State, u.src + u.srcL ≤ u.dmemBytes → u.srcL % 16 = 0 → FaultsOnlyUnwritten u (k u)) :
    FaultsOnlyUnwritten s (withCbcBuffer s k) := by
  refine withRegion_faultsOnly fun hs => withRegion_faultsOnly fun _ => withKey_faultsOnly fun u hu => ?_
  split
  · exact faultsOnly_next _
  · next hl => exact hk u (keyReady_source hu hs) (not_not.1 hl)

section

variable {loop : Nat → Nat → Nat → State → Result} {store : State → Nat → Quad → State}
  (hzero : ∀ a b s, loop 0 a b s = .next s)
  (hsucc : ∀ n a b s, loop (n + 1) a b s = withBytes s a 16 fun vs => loop n (a + 16) (b + 16) (store s b (load16 vs)))
  (hstore : ∀ s b q, RegionFrame s (store s b q) b 16)

include hzero hsucc hstore

/-- A byte without a value met by a later block had none at the start: a block stored gives its bytes values and leaves the
others alone. -/
theorem blockLoop_faultsOnly (n : Nat) : ∀ (a b : Nat) (s : State), a + 16 * n ≤ s.dmemBytes →
    FaultsOnlyUnwritten s (loop n a b s) := by
  induction n with
  | zero => intro a b s _; rw [hzero]; exact faultsOnly_next s
  | succ n ih =>
    intro a b s hn
    rw [hsucc]
    refine withBytes_faultsOnly (by omega) fun vs => ?_
    have hf := hstore s b (load16 vs)
    have hsize : (store s b (load16 vs)).dmemBytes = s.dmemBytes := by rw [hf.same]; rfl
    refine (ih _ _ _ (by omega)).of_state hsize fun o hnone => ?_
    by_cases ho : b ≤ o ∧ o < b + 16
    · exact absurd hnone (hf.inside o ho.1 ho.2)
    · rwa [← hf.outside o ho]

/-- The same over the source region of a buffer command. -/
theorem sourceLoop_faultsOnly (hs : s.src + s.srcL ≤ s.dmemBytes) (b : Nat) :
    FaultsOnlyUnwritten s (loop (s.srcL / 16) s.src b s) :=
  blockLoop_faultsOnly hzero hsucc hstore _ _ b s (by omega)

end

theorem cbcEncLoop_faultsOnly (hs : s.src + s.srcL ≤ s.dmemBytes) (free : Bool) (b : Nat) :
    FaultsOnlyUnwritten s (cbcEncLoop free (s.srcL / 16) s.src b s) :=
  sourceLoop_faultsOnly (fun _ _ _ => rfl) (fun _ _ _ _ => rfl) (fun s => cbcEncTo_frame s free) hs b

theorem cbcDecLoop_faultsOnly (hs : s.src + s.srcL ≤ s.dmemBytes) (free : Bool) (b : Nat) :
    FaultsOnlyUnwritten s (cbcDecLoop free (s.srcL / 16) s.src b s) :=
  sourceLoop_faultsOnly (fun _ _ _ => rfl) (fun _ _ _ _ => rfl) (fun s => cbcDecTo_frame s free) hs b

theorem execUnpad_faultsOnly : FaultsOnlyUnwritten s (execUnpad s) := by
  refine withRegion_faultsOnly fun hs => ?_
  split
  · exact faultsOnly_next _
  · exact withBytes_faultsOnly (by omega) fun _ => withUnpad_faultsOnly fun _ => faultsOnly_next _

/-- The bytes DECRYPT's padding check reads lie in a source region of whole blocks, at least one (45_pkcs7.md R535). -/
theorem withLastPlain_faultsOnly (hs : s.src + s.srcL ≤ s.dmemBytes) (hl : s.srcL % 16 = 0) (h0 : s.srcL ≠ 0)
    {k : Byte → Result} (hk : ∀ v, FaultsOnlyUnwritten s (k v)) : FaultsOnlyUnwritten s (withLastPlain s k) := by
  refine withBytes_faultsOnly (by omega) fun vs => ?_
  unfold withPrevLast
  split
  · exact hk _
  · exact withBytes_faultsOnly (by omega) fun _ => hk _

theorem execDecrypt_faultsOnly : FaultsOnlyUnwritten s (execDecrypt s) := by
  refine withCbcBuffer_faultsOnly fun u hs hl => ?_
  split
  · exact faultsOnly_next _
  · next h0 =>
    exact withLastPlain_faultsOnly hs hl h0 fun _ => withUnpad_faultsOnly fun _ =>
      andThen_faultsOnly (cbcDecLoop_faultsOnly hs _ _) fun _ => completes_next _

theorem execEncrypt_faultsOnly : FaultsOnlyUnwritten s (execEncrypt s) :=
  withRegion_faultsOnly fun hs => withRegion_faultsOnly fun _ => withKey_faultsOnly fun _ hu =>
    withBytes_faultsOnly (keyReady_source hu hs) fun _ => faultsOnly_next _

theorem execHashUpdate_faultsOnly (alg : Alg) : FaultsOnlyUnwritten s (execHashUpdate alg s) := by
  refine withRegion_faultsOnly fun hs => ?_
  split
  · exact faultsOnly_next _
  · exact withBytes_faultsOnly hs fun _ => faultsOnly_next _

theorem withHashOperands_faultsOnly (alg : Alg) {k : List Byte → Result} (hk : ∀ m, Completes (k m)) :
    FaultsOnlyUnwritten s (withHashOperands alg s k) :=
  withRegion_faultsOnly fun hs => withRegion_faultsOnly fun _ => withBytes_faultsOnly hs fun m => (hk m).faultsOnly

theorem execHmac_faultsOnly (alg : Alg) : FaultsOnlyUnwritten s (execHmac alg s) :=
  withRegion_faultsOnly fun hs => withRegion_faultsOnly fun ha => withRegion_faultsOnly fun _ =>
    withBytes_faultsOnly ha fun _ => withBytes_faultsOnly hs fun _ => faultsOnly_next _

theorem withKdfOperands_faultsOnly {k : List Byte → List Byte → Result} (hk : ∀ p salt, Completes (k p salt)) :
    FaultsOnlyUnwritten s (withKdfOperands s k) :=
  withRegion_faultsOnly fun ha => withRegion_faultsOnly fun hs => withRegion_faultsOnly fun _ =>
    withBytesIf_faultsOnly _ ha fun p => withBytesIf_faultsOnly _ hs fun salt => (hk p salt).faultsOnly

end

/-- Every command completes or faults at an unwritten byte inside DMEM. -/
theorem exec_faultsOnly (i : Instr) (s : State) : FaultsOnlyUnwritten s (exec i s) := by
  cases i with
  | nop | keyclr | subbytes | invsubbytes | shiftrows | invshiftrows | mixcolumns | invmixcolumns | gfmul | hashInit =>
    exact faultsOnly_next _
  | keyexp => exact (execKeyexp_completes s).faultsOnly
  | aesEnc | aesDec | cbcEncBlk | cbcDecBlk => exact withKey_faultsOnly fun _ _ => faultsOnly_next _
  | addrk | addirk => exact withRound_faultsOnly fun _ => completes_next _
  | cbcEncBuf =>
    exact withCbcBuffer_faultsOnly fun _ hs _ => andThen_faultsOnly (cbcEncLoop_faultsOnly hs _ _) fun _ => completes_next _
  | cbcDecBuf =>
    exact withCbcBuffer_faultsOnly fun _ hs _ => andThen_faultsOnly (cbcDecLoop_faultsOnly hs _ _) fun _ => completes_next _
  | pad => exact withRegion_faultsOnly fun _ => faultsOnly_next _
  | unpad => exact execUnpad_faultsOnly
  | encrypt => exact execEncrypt_faultsOnly
  | decrypt => exact execDecrypt_faultsOnly
  | hashUpdate alg => exact execHashUpdate_faultsOnly alg
  | hashFinal alg | hash alg => exact withHashOperands_faultsOnly alg fun _ => completes_next _
  | hmac alg => exact execHmac_faultsOnly alg
  | pbkdf2 | evpkdf => exact withKdfOperands_faultsOnly fun _ _ => completes_next _

theorem runCommand_faultsOnly (c : Word) (s : State) : FaultsOnlyUnwritten s (runCommand c s) := by
  unfold runCommand
  split
  · exact faultsOnly_next _
  · exact exec_faultsOnly _ s

/-- A command that completes leaves the engine idle with DONE set (60_exceptions.md R805). -/
theorem runCommand_idle_done {c : Word} {s t : State} (h : runCommand c s = .next t) : t.phase = .idle ∧ t.done = true := by
  unfold runCommand at h
  split at h
  · obtain ⟨⟩ := h
    exact ⟨rfl, rfl⟩
  · next i _ => cases exec_ends i s t h <;> exact ⟨rfl, rfl⟩

/-- Settles O11: a command's only stop is the fault at an unwritten byte, and a completion leaves the engine idle. -/
theorem everyCommandCompletes : Obligations.EveryCommandCompletes := by
  intro c s
  obtain ⟨t, ht⟩ | hfault := runCommand_faultsOnly c s
  · exact .inl ⟨t, ht, runCommand_idle_done ht⟩
  · exact .inr hfault

/-! ### Format N and NOP -/

/-- An opcode row of format N stands for its command where bits 31:8 are 0, and for nothing where they are not. -/
theorem formN_of_row {i : Instr} {op : Byte} (hrow : (op, Shape.n i) ∈ opcodes) : FormN i op := by
  rintro c rfl
  refine ⟨fun h0 => decode_ok_iff_spells.2 ⟨_, hrow, h0, rfl⟩, fun hne => illegalWord_of_decode_ne_ok fun j hj => ?_⟩
  obtain ⟨sh, hsh, hsp⟩ := decode_ok_iff_spells.1 hj
  obtain rfl : sh = .n i := Option.some.inj ((lookup_opcodes_iff.2 hsh).symm.trans (lookup_opcodes_iff.2 hrow))
  exact hne hsp.1

/-- Settles O30: opcode 0x00 is a row of format N, and NOP is the completion record alone. -/
theorem nopOnlyCompletes : Obligations.NopOnlyCompletes :=
  ⟨formN_of_row (lookup_opcodes_iff.1 rfl), fun _ => rfl, _, rfl, rfl, rfl⟩

end Sys2Proof.Machine
end

section
/-! Gf: the laws of the GF(2^8) product, the S-box and the column matrices (41_key_schedule.md R410 to R417, 42_aes_round.md
R455 to R457). -/

namespace Sys2Proof.Machine

/-! ### The product (R410) -/

/-- Doubling is additive. -/
theorem xtime_xor (a b : Byte) : xtime (a ^^^ b) = xtime a ^^^ xtime b := by
  unfold xtime
  rw [BitVec.getLsbD_xor, BitVec.shiftLeft_xor_distrib]
  have hcancel : ∀ x y k : Byte, x ^^^ y = (x ^^^ k) ^^^ (y ^^^ k) := fun x y k =>
    calc x ^^^ y = x ^^^ y ^^^ (k ^^^ k) := by simp
      _ = (x ^^^ k) ^^^ (y ^^^ k) := by ac_rfl
  cases a.getLsbD 7 <;> cases b.getLsbD 7
  · rfl
  · exact BitVec.xor_assoc ..
  · show (a <<< 1 ^^^ b <<< 1) ^^^ 0x1b#8 = (a <<< 1 ^^^ 0x1b#8) ^^^ b <<< 1; ac_rfl
  · exact hcancel ..

/-- An additive map that commutes with doubling goes through the rounds of the product. -/
theorem map_gmulLoop {g : Byte → Byte} (hadd : ∀ a b, g (a ^^^ b) = g a ^^^ g b) (hx : ∀ a, g (xtime a) = xtime (g a)) (n : Nat) :
    ∀ a b p : Byte, g (gmulLoop n a b p) = gmulLoop n (g a) b (g p) := by
  induction n with
  | zero => intro a b p; rfl
  | succ n ih => intro a b p; rw [gmulLoop, gmulLoop, ih, hx, apply_ite g, hadd]

theorem gmulLoop_xor (n : Nat) : ∀ a a' b p p' : Byte,
    gmulLoop n (a ^^^ a') b (p ^^^ p') = gmulLoop n a b p ^^^ gmulLoop n a' b p' := by
  induction n with
  | zero => intro a a' b p p'; rfl
  | succ n ih =>
    intro a a' b p p'
    rw [gmulLoop, gmulLoop, gmulLoop, xtime_xor, ← ih]
    congr 1
    split
    · ac_rfl
    · rfl

theorem xor_gmul (a a' b : Byte) : gmul (a ^^^ a') b = gmul a b ^^^ gmul a' b := gmulLoop_xor 8 a a' b 0 0

/-- An additive map that commutes with doubling goes through the product. -/
theorem map_gmul {g : Byte → Byte} (hadd : ∀ a b, g (a ^^^ b) = g a ^^^ g b) (hx : ∀ a, g (xtime a) = xtime (g a)) (a b : Byte) :
    g (gmul a b) = gmul (g a) b := by
  have h0 : g 0 = 0 := by simpa using hadd 0 0
  rw [gmul, map_gmulLoop hadd hx, h0]; rfl

theorem xtime_gmul (a b : Byte) : gmul (xtime a) b = xtime (gmul a b) := (map_gmul xtime_xor (fun _ => rfl) a b).symm

/-- Multiplication by `c` is additive and commutes with doubling, so it goes through the product with `b`. -/
theorem gmul_right_comm (a b c : Byte) : gmul (gmul a b) c = gmul (gmul a c) b :=
  map_gmul (g := (gmul · c)) (fun a a' => xor_gmul a a' c) (fun a => xtime_gmul a c) a b

@[simp] theorem one_gmul : ∀ b : Byte, gmul 1#8 b = b := by decide

theorem gmul_comm (a b : Byte) : gmul a b = gmul b a := by
  have h := gmul_right_comm 1#8 a b
  rwa [one_gmul, one_gmul] at h

theorem gmul_assoc (a b c : Byte) : gmul (gmul a b) c = gmul a (gmul b c) := by
  rw [gmul_comm a b, gmul_right_comm, gmul_comm]

theorem gmul_xor (a b c : Byte) : gmul a (b ^^^ c) = gmul a b ^^^ gmul a c := by
  rw [gmul_comm, xor_gmul, gmul_comm b, gmul_comm c]

@[simp] theorem zero_gmul : ∀ b : Byte, gmul 0#8 b = 0#8 := by decide

theorem two_gmul (b : Byte) : gmul 2#8 b = xtime b := by
  rw [show 2#8 = xtime 1#8 from rfl, xtime_gmul, one_gmul]

/-- The partial product of R410's loop collects the doublings of `a` that the bits of `b` select. -/
theorem gmulLoop_eq_foldl (n : Nat) : ∀ a b p : Byte,
    gmulLoop n a b p = (List.range n).foldl (fun q i => if b.getLsbD i then q ^^^ xtime^[i] a else q) p := by
  induction n with
  | zero => intro a b p; rfl
  | succ n ih =>
    intro a b p
    rw [gmulLoop, ih, List.range_succ_eq_map, List.foldl_cons, List.foldl_map]
    simp [Nat.add_comm]

theorem xtime_eq_nineBit : ∀ a : Byte, xtime a =
    ((a.setWidth 9 <<< 1) ^^^ (if (a.setWidth 9 <<< 1).getLsbD 8 then 0x11b#9 else 0)).setWidth 8 := by decide

/-- Settles O36: multiplication by a byte is additive and commutes with doubling, so it goes through the product; the laws
follow. -/
theorem gfProductLaws : Obligations.GfProductLaws := by
  refine ⟨fun a b c => ⟨gmul_comm a b, gmul_assoc a b c, gmul_xor a b c, ?_, ?_, ?_, gmulLoop_eq_foldl 8 a b 0⟩,
    xtime_eq_nineBit, by decide, by decide, by decide, by decide⟩
  · exact (gmul_comm a _).trans (one_gmul a)
  · exact (gmul_comm a _).trans (zero_gmul a)
  · exact (gmul_comm a _).trans (two_gmul a)

/-! ### The S-box (R412 to R414) -/

/-- The inverse of the affine transform of R413, on an entry of the S-box: the multiplicative inverse of R412. -/
def gfInv (x : Byte) : Byte := (sbox x).rotateLeft 1 ^^^ (sbox x).rotateLeft 3 ^^^ (sbox x).rotateLeft 6 ^^^ 0x05

theorem gmul_gfInv : ∀ x : Byte, x ≠ 0 → gmul x (gfInv x) = 1#8 := by decide

theorem sbox_eq_affine : ∀ x : Byte, sbox x = gfInv x ^^^ (gfInv x).rotateLeft 1 ^^^ (gfInv x).rotateLeft 2 ^^^
    (gfInv x).rotateLeft 3 ^^^ (gfInv x).rotateLeft 4 ^^^ 0x63 := by decide

@[simp] theorem invSbox_sbox : ∀ x : Byte, invSbox (sbox x) = x := by decide

@[simp] theorem sbox_invSbox : ∀ x : Byte, sbox (invSbox x) = x := by decide

theorem gfInv_unique {x z : Byte} (hx : x ≠ 0) (hz : gmul x z = 1#8) : z = gfInv x := by
  calc z = gmul 1#8 z := (one_gmul z).symm
    _ = gmul (gmul (gfInv x) x) z := by rw [gmul_comm (gfInv x), gmul_gfInv x hx]
    _ = gmul (gfInv x) 1#8 := by rw [gmul_assoc, hz]
    _ = gfInv x := by rw [gmul_comm, one_gmul]

/-- Settles O37: both tables are read off once; the inverse is unique because the product is associative. -/
theorem sboxFromInverse : Obligations.SboxFromInverse := fun x =>
  ⟨gfInv x, fun hx => ⟨gmul_gfInv x hx, fun _ => gfInv_unique hx⟩, by rintro rfl; rfl, sbox_eq_affine x, invSbox_sbox x,
    sbox_invSbox x⟩

/-! ### The column matrices (R417) -/

section

variable (c0 c1 c2 c3 d0 d1 d2 d3 : Byte)

theorem gfRow_gfRow (a0 a1 a2 a3 : Byte) :
    gfRow c0 c1 c2 c3 (gfRow d0 d1 d2 d3 a0 a1 a2 a3) (gfRow d3 d0 d1 d2 a0 a1 a2 a3)
      (gfRow d2 d3 d0 d1 a0 a1 a2 a3) (gfRow d1 d2 d3 d0 a0 a1 a2 a3) =
    gfRow (gfRow c0 c1 c2 c3 d0 d3 d2 d1) (gfRow c0 c1 c2 c3 d1 d0 d3 d2) (gfRow c0 c1 c2 c3 d2 d1 d0 d3)
      (gfRow c0 c1 c2 c3 d3 d2 d1 d0) a0 a1 a2 a3 := by
  simp only [gfRow, gmul_xor, xor_gmul, gmul_assoc]
  ac_rfl

/-- A column matrix on four equal bytes multiplies by the sum of its row. -/
theorem gfRow_same (b : Byte) : gfRow c0 c1 c2 c3 b b b b = gmul (c0 ^^^ c1 ^^^ c2 ^^^ c3) b := by
  simp only [gfRow, xor_gmul]

/-- The product of two matrices of R417 is the matrix of the product of the first by the second's columns. -/
theorem gfColumn_gfColumn (w : Word) :
    gfColumn c0 c1 c2 c3 (gfColumn d0 d1 d2 d3 w) =
      gfColumn (gfRow c0 c1 c2 c3 d0 d3 d2 d1) (gfRow c0 c1 c2 c3 d1 d0 d3 d2) (gfRow c0 c1 c2 c3 d2 d1 d0 d3)
        (gfRow c0 c1 c2 c3 d3 d2 d1 d0) w := by
  simp only [gfColumn, byteOf_wordOf_zero, byteOf_wordOf_one, byteOf_wordOf_two, byteOf_wordOf_three, gfRow_gfRow]
  congr 1 <;> simp only [gfRow] <;> congr 2 <;> ac_rfl

end

theorem gfColumn_one (w : Word) : gfColumn 1#8 0#8 0#8 0#8 w = w := by
  simp [gfColumn, gfRow]

theorem invMixWord_mixWord (w : Word) : invMixWord (mixWord w) = w := by
  rw [invMixWord, mixWord, gfColumn_gfColumn]
  exact gfColumn_one w

/-- Where a row adds up to 1, a column of four equal bytes is fixed. -/
theorem gfColumn_same {c0 c1 c2 c3 : Byte} (h : c0 ^^^ c1 ^^^ c2 ^^^ c3 = 1#8) (b : Byte) :
    gfColumn c0 c1 c2 c3 (wordOf b b b b) = wordOf b b b b := by
  have h1 : c3 ^^^ c0 ^^^ c1 ^^^ c2 = 1#8 := by rw [← h]; ac_rfl
  have h2 : c2 ^^^ c3 ^^^ c0 ^^^ c1 = 1#8 := by rw [← h]; ac_rfl
  have h3 : c1 ^^^ c2 ^^^ c3 ^^^ c0 = 1#8 := by rw [← h]; ac_rfl
  simp [gfColumn, gfRow_same, h, h1, h2, h3]

theorem Quad.get_map (f : Word → Word) (q : Quad) (c : Nat) : (q.map f).get c = f (q.get c) := by
  match c with
  | 0 => rfl
  | 1 => rfl
  | 2 => rfl
  | _ + 3 => rfl

/-- Settles O40: each column goes through its matrix; the two matrices multiply to the identity, and each has rows that add up
to 1. -/
theorem mixColumnsCommands : Obligations.MixColumnsCommands := by
  refine ⟨formN_of_row (lookup_opcodes_iff.1 rfl), formN_of_row (lookup_opcodes_iff.1 rfl),
    fun s => ⟨mixColumns s.block, invMixColumns s.block, rfl, rfl, fun c _ => ⟨?_, ?_⟩⟩, invMixWord_mixWord,
    fun b => ⟨gfColumn_same (by decide) b, gfColumn_same (by decide) b⟩, by decide, by decide, by decide, by decide, by decide⟩
  · exact Quad.get_map mixWord s.block c
  · exact Quad.get_map invMixWord s.block c

end Sys2Proof.Machine
end

section
/-! KeySchedule: the forward and inverse schedules, and the commands that fill and clear the key cache (41_key_schedule.md R420
to R428). -/

namespace Sys2Proof.Machine

/-! ### The forward schedule (R420) -/

/-- The word that follows the schedule words `w`. -/
def nextKeyWord (nk : Nat) (w : List Word) : Word :=
  w.getD (w.length - nk) 0 ^^^ keyTemp nk w.length (w.getD (w.length - 1) 0)

/-- From index `nk` on, each word of `w` is the one that follows the words before it. -/
def FollowsRecurrence (nk : Nat) (w : List Word) : Prop :=
  ∀ i, nk ≤ i → i < w.length → w.getD i 0 = w.getD (i - nk) 0 ^^^ keyTemp nk i (w.getD (i - 1) 0)

theorem FollowsRecurrence.snoc {nk : Nat} {w : List Word} (hnk : 0 < nk) (h : FollowsRecurrence nk w) :
    FollowsRecurrence nk (w ++ [nextKeyWord nk w]) := by
  intro i hi hlt
  rw [List.length_append, List.length_singleton] at hlt
  rw [List.getD_append _ _ _ (i - nk) (by omega), List.getD_append _ _ _ (i - 1) (by omega)]
  obtain hlt | rfl : i < w.length ∨ i = w.length := by omega
  · rw [List.getD_append _ _ _ i hlt, h i hi hlt]
  · simp [nextKeyWord]

/-- A round of the loop of R420 appends the word that follows; the loop holds its words newest first. -/
theorem reverse_expandLoop_succ {nk : Nat} (n : Nat) {w : List Word} (hnk : 0 < nk) (hw : nk ≤ w.length) :
    expandLoop nk (n + 1) w.length w.reverse =
      expandLoop nk n (w ++ [nextKeyWord nk w]).length (w ++ [nextKeyWord nk w]).reverse := by
  have h0 : w.reverse.getD 0 0 = w.getD (w.length - 1) 0 := by
    rw [List.getD_reverse _ (by omega)]; rfl
  have hk : w.reverse.getD (nk - 1) 0 = w.getD (w.length - nk) 0 := by
    rw [List.getD_reverse _ (by omega)]; congr 1; omega
  rw [expandLoop, h0, hk, List.reverse_append, List.length_append]; rfl

/-- The loop of R420 keeps the words it has, and goes on by the recurrence. -/
theorem expandLoop_spec {nk : Nat} (hnk : 0 < nk) (n : Nat) : ∀ w : List Word, nk ≤ w.length → FollowsRecurrence nk w →
    ∃ v, (expandLoop nk n w.length w.reverse).reverse = w ++ v ∧ v.length = n ∧ FollowsRecurrence nk (w ++ v) := by
  induction n with
  | zero => intro w _ h; exact ⟨[], by simp [expandLoop], rfl, by simpa using h⟩
  | succ n ih =>
    intro w hw h
    obtain ⟨v, he, hv, hr⟩ := ih (w ++ [nextKeyWord nk w]) (by simp; omega) (h.snoc hnk)
    rw [List.append_assoc] at he hr
    exact ⟨_ :: v, by rw [reverse_expandLoop_succ n hnk hw, he]; rfl, by simp [hv], hr⟩

/-- The schedule of a key is the key and what the recurrence makes of it. -/
theorem keyExpand_spec {k : List Word} (hk : 0 < k.length) :
    ∃ v, keyExpand k k.length = k ++ v ∧ v.length = scheduleLen k.length - k.length ∧ FollowsRecurrence k.length (k ++ v) := by
  rw [keyExpand, List.take_length]
  exact expandLoop_spec hk _ k le_rfl (fun i hi hlt => absurd hi (by omega))

theorem keyExpand_length {k : List Word} {nk : Nat} (hnk : nk = 4 ∨ nk = 6 ∨ nk = 8) (hk : k.length = nk) :
    (keyExpand k nk).length = 4 * (nk + 7) := by
  subst hk
  obtain ⟨v, hv, hl, -⟩ := keyExpand_spec (k := k) (by omega)
  rw [hv, List.length_append, hl, scheduleLen]; omega

theorem keyExpand_take (k : List Word) (nk : Nat) : keyExpand (k.take nk) nk = keyExpand k nk := by
  rw [keyExpand, keyExpand, List.take_take, min_self]

theorem forwardOf_eq (n : Word) (key : Oct) : forwardOf n key = keyExpand (key.toList.take (nkOf n)) (nkOf n) :=
  (keyExpand_take key.toList (nkOf n)).symm

/-- The round constants of R416 are the doublings of 1, in the top byte. -/
theorem rconWord_eq_xtime : ∀ j < 10, rconWord (j + 1) = (xtime^[j] 1).setWidth 32 <<< 24 := by decide

/-- In a schedule the round constant is that of a round 1 .. 10. -/
theorem keyTemp_eq {nk i : Nat} (hnk : nk = 4 ∨ nk = 6 ∨ nk = 8) (hi : nk ≤ i) (hlt : i < 4 * (nk + 7)) (t : Word) :
    keyTemp nk i t =
      if i % nk = 0 then subWord (rotWord t) ^^^ ((xtime^[i / nk - 1] 1).setWidth 32 <<< 24)
      else if 6 < nk ∧ i % nk = 4 then subWord t
      else t := by
  have hj : 1 ≤ i / nk ∧ i / nk ≤ 10 := by obtain rfl | rfl | rfl := hnk <;> omega
  rw [keyTemp, ← rconWord_eq_xtime (i / nk - 1) (by omega), Nat.sub_add_cancel hj.1]

/-- Settles O32: the loop appends the word the recurrence gives, so its words follow the recurrence from the key on. -/
theorem forwardScheduleRecurrence : Obligations.ForwardScheduleRecurrence := by
  refine ⟨fun n key hn => ?_, fun k nk hnk hk => ⟨keyExpand_length hnk hk, fun i hi => ?_, fun i hi hlt => ?_⟩⟩
  · rw [forwardOf_eq]
    obtain rfl | rfl | rfl := hn <;> rfl
  · subst hk
    obtain ⟨v, hv, -, -⟩ := keyExpand_spec (k := k) (by omega)
    rw [hv, List.getD_append _ _ _ _ hi]
  · have hlen := keyExpand_length hnk hk
    subst hk
    obtain ⟨v, hv, -, hr⟩ := keyExpand_spec (k := k) (by omega)
    rw [← hv] at hr
    rw [hr i hi (by omega), keyTemp_eq hnk hi hlt]

/-! ### The inverse schedule (R422) -/

@[simp] theorem invKeyExpand_length (w : List Word) (nr : Nat) : (invKeyExpand w nr).length = 4 * (nr + 1) := by
  simp [invKeyExpand]

theorem invKeyExpand_getD {w : List Word} {nr i : Nat} (hi : i < 4 * (nr + 1)) :
    (invKeyExpand w nr).getD i 0 = invKeyWord w nr i := by
  simp [invKeyExpand, hi]

/-- Settles O33: word 4r + c stands in round r, column c. -/
theorem inverseScheduleOrder : Obligations.InverseScheduleOrder := by
  refine fun w nr _ _ => ⟨invKeyExpand_length w nr, fun r c hr hc => ?_⟩
  have hround : (4 * r + c) / 4 = r := by omega
  have hcolumn : (4 * r + c) % 4 = c := by omega
  rw [invKeyExpand_getD (by omega), invKeyWord, hround, hcolumn]

/-! ### KEYEXP (R424, R425) -/

theorem keyLenOk_iff {n : Word} : keyLenOk n = true ↔ n = 16 ∨ n = 24 ∨ n = 32 := by
  simp [keyLenOk, or_assoc]

theorem keyLenOk_eq_false_iff {n : Word} : keyLenOk n = false ↔ n ≠ 16 ∧ n ≠ 24 ∧ n ≠ 32 := by
  rw [← Bool.not_eq_true, keyLenOk_iff]; tauto

theorem generate_some {s : State} (h : keyLenOk s.keyLen = true) : s.generate = some s.keyFilled := if_pos h

theorem generate_none {s : State} (h : keyLenOk s.keyLen = false) : s.generate = none := by
  rw [State.generate, h]; rfl

theorem execKeyexp_legal {s : State} (h : keyLenOk s.keyLen = true) : execKeyexp s = .next s.keyFilled.finish := by
  rw [execKeyexp, generate_some h]

theorem execKeyexp_illegal {s : State} (h : keyLenOk s.keyLen = false) : execKeyexp s = .next (s.raise .invalidKeySize) := by
  rw [execKeyexp, generate_none h]

/-- A round-key RAM holds its schedule, and 0 past the end of it. -/
theorem ramOf_getD {w : List Word} (hw : w.length ≤ 60) {i : Nat} (hi : i < 60) :
    (ramOf w).toList.getD i 0 = if i < w.length then w.getD i 0 else 0 := by
  rw [show (ramOf w).toList = (w ++ List.replicate 60 0).take 60 from rfl, List.getD_eq_getElem?_getD, List.getElem?_take_of_lt hi,
    ← List.getD_eq_getElem?_getD]
  split
  · next h => exact List.getD_append _ _ _ _ h
  · next h => rw [List.getD_append_right _ _ _ _ (by omega), List.getD_replicate _ (by omega)]

/-- STATUS right after a 16-byte key is expanded: KEY_VALID and DONE, Nr = 10 and Nk = 4. -/
theorem statusWord_keyFilled {s : State} (h : s.keyLen = 16) : statusWord s.keyFilled.finish = 0x004A000A := by
  simp [statusWord, statusWith, keyFields, State.keyFilled, nkOf, h, State.busy, codeOf]

theorem nkOf_cases {n : Word} (h : n = 16 ∨ n = 24 ∨ n = 32) : nkOf n = 4 ∨ nkOf n = 6 ∨ nkOf n = 8 := by
  obtain rfl | rfl | rfl := h <;> decide

theorem forwardOf_length {n : Word} (h : n = 16 ∨ n = 24 ∨ n = 32) (key : Oct) :
    (forwardOf n key).length = 4 * (nkOf n + 7) := by
  have hnk := nkOf_cases h
  rw [forwardOf_eq]
  exact keyExpand_length hnk (List.length_take_of_le (by simp [Oct.toList]; omega))

theorem inverseOf_length (n : Word) (key : Oct) : (inverseOf n key).length = 4 * (nkOf n + 7) := invKeyExpand_length _ _

/-- Settles O31: the schedules have 4 (Nr + 1) words, at most 60, so the RAMs hold all of them. -/
theorem keyexpGeneratesSchedule : Obligations.KeyexpGeneratesSchedule := by
  refine ⟨formN_of_row (lookup_opcodes_iff.1 rfl), fun s h => execKeyexp_illegal (keyLenOk_eq_false_iff.2 h), fun s h => ?_,
    fun s h => ⟨_, execKeyexp_legal (keyLenOk_iff.2 (.inl h)), statusWord_keyFilled h⟩⟩
  intro n w
  have hw : forwardOf s.keyLen s.key = w := forwardOf_eq s.keyLen s.key
  have hn : 4 * (nkOf s.keyLen + 7) ≤ 60 := by obtain h | h | h := nkOf_cases h <;> omega
  refine ⟨execKeyexp_legal (keyLenOk_iff.2 h), rfl, fun i hi => ⟨?_, ?_⟩⟩
  · have hl := forwardOf_length h s.key
    rw [← hw]
    exact (ramOf_getD (hl.trans_le hn) hi).trans (by rw [hl]; rfl)
  · have hl := inverseOf_length s.keyLen s.key
    rw [← hw]
    exact (ramOf_getD (hl.trans_le hn) hi).trans (by rw [hl]; rfl)

/-! ### KeyReady (R427) -/

theorem withKey_none {s : State} (h : s.keyReady = none) (k : State → Result) : withKey s k = .next (s.raise .invalidKeySize) := by
  rw [withKey, h]

theorem withKey_valid {s : State} (h : s.keyValid = true) (k : State → Result) : withKey s k = k s :=
  withKey_ok (keyReady_some.2 (.inl ⟨h, rfl⟩)) k

theorem withRegion_withRegion_ok {s : State} {a n b m : Nat} (h : (s.regionOk a n && s.regionOk b m) = true) (k : Result) :
    withRegion s a n (withRegion s b m k) = k := by
  obtain ⟨ha, hb⟩ := (Bool.and_eq_true _ _).mp h
  rw [withRegion_ok ha, withRegion_ok hb]

/-- Once its region checks pass, a key-using command is KeyReady and work on the state that leaves; what it has read before are
operands the fill does not touch. -/
theorem exec_eq_withKey {i : Instr} (hi : usesKey i = true) :
    ∃ k : State → State → Result, (∀ s, regionsBeforeKey i s = true → exec i s = withKey s (k s)) ∧ ∀ s, k s.keyFilled = k s := by
  cases i
  case aesEnc | aesDec | addrk | addirk | cbcEncBlk | cbcDecBlk => exact ⟨fun _ => _, fun _ _ => rfl, fun _ => rfl⟩
  case cbcEncBuf | cbcDecBuf | encrypt | decrypt => exact ⟨_, fun _ h => withRegion_withRegion_ok h _, fun _ => rfl⟩
  all_goals cases hi

/-- Where the cache is invalid and KEY_LEN is illegal, a key-using command whose regions pass raises InvalidKeySize. -/
theorem exec_without_key {i : Instr} {s : State} (hi : usesKey i = true) (hr : regionsBeforeKey i s = true)
    (hv : s.keyValid = false) (hl : keyLenOk s.keyLen = false) : exec i s = .next (s.raise .invalidKeySize) := by
  obtain ⟨k, hk, -⟩ := exec_eq_withKey hi
  rw [hk s hr, withKey_none (keyReady_none.2 ⟨hv, hl⟩)]

theorem regionsBeforeKey_keyFilled (i : Instr) (s : State) : regionsBeforeKey i s.keyFilled = regionsBeforeKey i s := by
  cases i <;> rfl

/-- Where the cache is invalid and KEY_LEN is legal, a key-using command whose regions pass does its work on the filled state. -/
theorem exec_on_fill {i : Instr} {s : State} (hi : usesKey i = true) (hr : regionsBeforeKey i s = true)
    (hv : s.keyValid = false) (hl : keyLenOk s.keyLen = true) : exec i s = exec i s.keyFilled := by
  obtain ⟨k, hk, hfill⟩ := exec_eq_withKey hi
  rw [hk s hr, hk s.keyFilled (by rwa [regionsBeforeKey_keyFilled]), withKey_ok (keyReady_some.2 (.inr ⟨hv, hl, rfl⟩)),
    withKey_valid rfl, hfill]

/-! ### Changes of the key that a command does not see -/

/-- A change of KEY, KEY_LEN and the cache, a function for each field. -/
structure KeyChange where
  key : Oct → Oct
  keyLen : Word → Word
  keyValid : Bool → Bool
  rk : Vector Word 60 → Vector Word 60
  irk : Vector Word 60 → Vector Word 60

/-- A state with its key fields changed. -/
def KeyChange.on (p : KeyChange) (s : State) : State :=
  { s with
    key := p.key s.key, keyLen := p.keyLen s.keyLen, keyValid := p.keyValid s.keyValid, rk := p.rk s.rk, irk := p.irk s.irk }

/-- KEY and KEY_LEN replaced. -/
def KeyChange.registers (k : Oct) (n : Word) : KeyChange := ⟨fun _ => k, fun _ => n, id, id, id⟩

/-- KEY_VALID, RK and IRK replaced. -/
def KeyChange.cache (v : Bool) (rk irk : Vector Word 60) : KeyChange := ⟨id, id, fun _ => v, fun _ => rk, fun _ => irk⟩

/-- `r'` is `r` with the change made in its next state: what made them did not see the change. -/
def CarriesOver (p : KeyChange) (r r' : Result) : Prop := r' = andThen r (fun t => .next (p.on t))

section

variable {p : KeyChange} {s : State}

theorem carriesOver_next (p : KeyChange) (t : State) : CarriesOver p (.next t) (.next (p.on t)) := rfl

theorem carriesOver_ite {c : Prop} [Decidable c] {a a' b b' : Result} (ha : CarriesOver p a a') (hb : CarriesOver p b b') :
    CarriesOver p (if c then a else b) (if c then a' else b') := by
  split <;> assumption

theorem withRegion_carriesOver {a n : Nat} {k k' : Result} (hk : CarriesOver p k k') :
    CarriesOver p (withRegion s a n k) (withRegion (p.on s) a n k') :=
  carriesOver_ite hk (carriesOver_next p _)

theorem memRead_keyChange (p : KeyChange) (s : State) (a n : Nat) : (p.on s).memRead a n = s.memRead a n :=
  memRead_congr (s := s) (t := p.on s) (fun _ => rfl) n a

theorem outBlock_keyChange (p : KeyChange) (s : State) (free : Bool) (q : Quad) : (p.on s).outBlock free q = s.outBlock free q := rfl

theorem storeBlock_keyChange (p : KeyChange) (s : State) (c : Quad) (b : Nat) (vs : List Byte) (free : Bool) :
    (((p.on s).withChain c).memWrite b vs).outDrawn free = p.on (((s.withChain c).memWrite b vs).outDrawn free) := by
  cases free <;> rfl

theorem withBytes_carriesOver {a n : Nat} {k k' : List Byte → Result} (hk : ∀ vs, CarriesOver p (k vs) (k' vs)) :
    CarriesOver p (withBytes s a n k) (withBytes (p.on s) a n k') := by
  rw [withBytes, withBytes, memRead_keyChange]
  cases s.memRead a n with
  | ok vs => exact hk vs
  | error f => rfl

theorem withBytesIf_carriesOver (needed : Bool) {a n : Nat} {k k' : List Byte → Result}
    (hk : ∀ vs, CarriesOver p (k vs) (k' vs)) :
    CarriesOver p (withBytesIf needed s a n k) (withBytesIf needed (p.on s) a n k') :=
  carriesOver_ite (withBytes_carriesOver hk) (hk [])

theorem withUnpad_carriesOver {n len : Nat} {k k' : Nat → Result} (hk : ∀ n, CarriesOver p (k n) (k' n)) :
    CarriesOver p (withUnpad s n len k) (withUnpad (p.on s) n len k') :=
  carriesOver_ite (hk n) (carriesOver_next p _)

theorem andThen_carriesOver {r r' : Result} {k k' : State → Result} (hr : CarriesOver p r r')
    (hk : ∀ t, CarriesOver p (k t) (k' (p.on t))) : CarriesOver p (andThen r k) (andThen r' k') := by
  rw [show r' = _ from hr]
  cases r with
  | next t => exact hk t
  | fault f => rfl
  | refused e => rfl

theorem withHashOperands_carriesOver (alg : Alg) {k k' : List Byte → Result} (hk : ∀ m, CarriesOver p (k m) (k' m)) :
    CarriesOver p (withHashOperands alg s k) (withHashOperands alg (p.on s) k') :=
  withRegion_carriesOver (withRegion_carriesOver (withBytes_carriesOver hk))

theorem withKdfOperands_carriesOver {k k' : List Byte → List Byte → Result}
    (hk : ∀ pw salt, CarriesOver p (k pw salt) (k' pw salt)) : CarriesOver p (withKdfOperands s k) (withKdfOperands (p.on s) k') :=
  withRegion_carriesOver (withRegion_carriesOver (withRegion_carriesOver
    (withBytesIf_carriesOver _ (fun pw => withBytesIf_carriesOver _ (hk pw)))))

theorem hashFinished_carriesOver (p : KeyChange) (s : State) (alg : Alg) (m : List Byte) :
    CarriesOver p (.next (s.hashFinished alg m).finish) (.next ((p.on s).hashFinished alg m).finish) := rfl

/-- A command that uses no key, KEYEXP and KEYCLR apart, sees no change of the key. -/
theorem exec_carriesOver (p : KeyChange) {i : Instr} (s : State) (hi : usesKey i = false) (he : i ≠ .keyexp) (hc : i ≠ .keyclr) :
    CarriesOver p (exec i s) (exec i (p.on s)) := by
  cases i
  case nop | subbytes | invsubbytes | shiftrows | invshiftrows | mixcolumns | invmixcolumns | gfmul | hashInit => rfl
  case keyexp => exact absurd rfl he
  case keyclr => exact absurd rfl hc
  case pad => exact withRegion_carriesOver rfl
  case unpad =>
    exact withRegion_carriesOver (carriesOver_ite rfl (withBytes_carriesOver fun _ => withUnpad_carriesOver fun _ => rfl))
  case hashUpdate => exact withRegion_carriesOver (carriesOver_ite rfl (withBytes_carriesOver fun _ => rfl))
  case hashFinal alg => exact withHashOperands_carriesOver alg (hashFinished_carriesOver p s alg)
  case hash alg => exact withHashOperands_carriesOver alg (hashFinished_carriesOver p (s.withHash (hashIv alg) 0) alg)
  case hmac =>
    exact withRegion_carriesOver (withRegion_carriesOver (withRegion_carriesOver
      (withBytes_carriesOver fun _ => withBytes_carriesOver fun _ => rfl)))
  case pbkdf2 => exact withKdfOperands_carriesOver fun _ _ => rfl
  case evpkdf => exact withKdfOperands_carriesOver fun _ _ => rfl
  all_goals cases hi

end

/-! ### A valid cache: the commands read neither KEY nor KEY_LEN -/

section

variable {k : Oct} {n : Word} {s : State}

theorem withKey_carriesOver (hv : s.keyValid = true) {f : State → Result}
    (hf : CarriesOver (.registers k n) (f s) (f ((KeyChange.registers k n).on s))) :
    CarriesOver (.registers k n) (withKey s f) (withKey ((KeyChange.registers k n).on s) f) := by
  rwa [withKey_valid hv, withKey_valid (s := (KeyChange.registers k n).on s) hv]

theorem withRound_carriesOver (hv : s.keyValid = true) {r : Nat} {f : State → Result}
    (hf : CarriesOver (.registers k n) (f s) (f ((KeyChange.registers k n).on s))) :
    CarriesOver (.registers k n) (withRound s r f) (withRound ((KeyChange.registers k n).on s) r f) :=
  withKey_carriesOver hv (carriesOver_ite rfl hf)

theorem withCbcBuffer_carriesOver (hv : s.keyValid = true) {f : State → Result}
    (hf : CarriesOver (.registers k n) (f s) (f ((KeyChange.registers k n).on s))) :
    CarriesOver (.registers k n) (withCbcBuffer s f) (withCbcBuffer ((KeyChange.registers k n).on s) f) :=
  withRegion_carriesOver (withRegion_carriesOver (withKey_carriesOver hv (carriesOver_ite rfl hf)))

theorem cbcEncTo_registers (k : Oct) (n : Word) (s : State) (free : Bool) (b : Nat) (q : Quad) :
    ((KeyChange.registers k n).on s).cbcEncTo free b q = (KeyChange.registers k n).on (s.cbcEncTo free b q) := by
  have hblock : ((KeyChange.registers k n).on s).encryptBlock = s.encryptBlock := rfl
  rw [State.cbcEncTo, State.cbcEncTo, hblock, outBlock_keyChange, storeBlock_keyChange]; rfl

theorem cbcDecTo_registers (k : Oct) (n : Word) (s : State) (free : Bool) (b : Nat) (q : Quad) :
    ((KeyChange.registers k n).on s).cbcDecTo free b q = (KeyChange.registers k n).on (s.cbcDecTo free b q) := by
  have hblock : ((KeyChange.registers k n).on s).decryptBlock = s.decryptBlock := rfl
  rw [State.cbcDecTo, State.cbcDecTo, hblock, outBlock_keyChange, storeBlock_keyChange]; rfl

theorem cbcEncLoop_carriesOver (free : Bool) (c : Nat) : ∀ (a b : Nat) (s : State),
    CarriesOver (.registers k n) (cbcEncLoop free c a b s) (cbcEncLoop free c a b ((KeyChange.registers k n).on s)) := by
  induction c with
  | zero => intro a b s; rfl
  | succ c ih => exact fun a b s => withBytes_carriesOver fun vs => by rw [cbcEncTo_registers]; exact ih ..

theorem cbcDecLoop_carriesOver (free : Bool) (c : Nat) : ∀ (a b : Nat) (s : State),
    CarriesOver (.registers k n) (cbcDecLoop free c a b s) (cbcDecLoop free c a b ((KeyChange.registers k n).on s)) := by
  induction c with
  | zero => intro a b s; rfl
  | succ c ih => exact fun a b s => withBytes_carriesOver fun vs => by rw [cbcDecTo_registers]; exact ih ..

theorem cbcEncString_registers (free : Bool) (c : Nat) : ∀ (b : Nat) (m : List Byte) (s : State),
    cbcEncString free c b m ((KeyChange.registers k n).on s) = (KeyChange.registers k n).on (cbcEncString free c b m s) := by
  induction c with
  | zero => intro b m s; rfl
  | succ c ih => intro b m s; rw [cbcEncString, cbcEncString, cbcEncTo_registers, ih]

theorem withLastPlain_carriesOver {f f' : Byte → Result} (hf : ∀ v, CarriesOver (.registers k n) (f v) (f' v)) :
    CarriesOver (.registers k n) (withLastPlain s f) (withLastPlain ((KeyChange.registers k n).on s) f') :=
  withBytes_carriesOver fun _ => carriesOver_ite (hf _) (withBytes_carriesOver fun _ => hf _)

/-- With a valid cache a key-using command sees no change of KEY and KEY_LEN. -/
theorem exec_registers_carriesOver {i : Instr} (k : Oct) (n : Word) (hi : usesKey i = true) (hv : s.keyValid = true) :
    CarriesOver (.registers k n) (exec i s) (exec i ((KeyChange.registers k n).on s)) := by
  cases i
  case aesEnc | aesDec | cbcEncBlk | cbcDecBlk => exact withKey_carriesOver hv rfl
  case addrk | addirk => exact withRound_carriesOver hv rfl
  case cbcEncBuf =>
    exact withCbcBuffer_carriesOver hv (andThen_carriesOver (cbcEncLoop_carriesOver ..) fun _ => rfl)
  case cbcDecBuf =>
    exact withCbcBuffer_carriesOver hv (andThen_carriesOver (cbcDecLoop_carriesOver ..) fun _ => rfl)
  case encrypt =>
    exact withRegion_carriesOver (withRegion_carriesOver (withKey_carriesOver hv (withBytes_carriesOver fun _ => by
      rw [cbcEncString_registers]; rfl)))
  case decrypt =>
    exact withCbcBuffer_carriesOver hv (carriesOver_ite rfl (withLastPlain_carriesOver fun _ =>
      withUnpad_carriesOver fun _ => andThen_carriesOver (cbcDecLoop_carriesOver ..) fun _ => rfl))
  all_goals cases hi

end

/-- Settles O34: KeyReady alone reads the key registers, and the commands that do not use it see no change of the key. -/
theorem lazyKeyCheck : Obligations.LazyKeyCheck := by
  refine ⟨fun i s hi hr hv => ⟨fun hl => exec_on_fill hi hr hv (keyLenOk_iff.2 hl),
      fun hl => exec_without_key hi hr hv (keyLenOk_eq_false_iff.2 hl)⟩,
    fun i s k n hi hv => exec_registers_carriesOver k n hi hv,
    fun i s v rk irk hi he hc => exec_carriesOver (.cache v rk irk) s hi he hc,
    fun s v rk irk => ⟨rfl, fun hl => ?_⟩⟩
  have hlen := keyLenOk_iff.2 hl
  exact (execKeyexp_legal (s := (KeyChange.cache v rk irk).on s) hlen).trans (execKeyexp_legal (s := s) hlen).symm

/-! ### KEYCLR (R428) -/

theorem ramOf_nil : ramOf [] = Vector.replicate 60 0 := rfl

/-- Settles O35: KEYCLR leaves an invalid cache and KEY_LEN = 0, which is illegal. -/
theorem keyclrClearsKey : Obligations.KeyclrClearsKey := by
  refine ⟨formN_of_row (lookup_opcodes_iff.1 rfl), fun s => ⟨_, rfl, ?_, ?_, fun i hi hr => exec_without_key hi hr rfl rfl⟩⟩
  · rw [State.keyCleared, ramOf_nil]; rfl
  · simp [statusWord, statusWith, keyFields, State.keyCleared, State.busy, codeOf]

end Sys2Proof.Machine
end

section
/-! AesRound: SUBBYTES, SHIFTROWS, ADDRK, their inverses, and GFMUL (42_aes_round.md R450 to R462). -/

namespace Sys2Proof.Machine

/-! ### Formats R and G -/

/-- On the opcode of a row the decoder's answer is the row's: its must-be-zero bits and its operands. -/
theorem decode_ok_iff_of_row {c : Word} {sh : Shape} {i : Instr} (hrow : (c.extractLsb' 0 8, sh) ∈ opcodes) :
    decode c = .ok i ↔ c &&& sh.mbz = 0#32 ∧ build sh c = .ok i := by
  rw [decode_ok_iff]
  refine ⟨fun ⟨sh', hsh, h⟩ => ?_, fun h => ⟨sh, hrow, h⟩⟩
  obtain rfl : sh' = sh := Option.some.inj ((lookup_opcodes_iff.2 hsh).symm.trans (lookup_opcodes_iff.2 hrow))
  exact h

theorem illegalWord_of_row {c : Word} {sh : Shape} (hrow : (c.extractLsb' 0 8, sh) ∈ opcodes) (hne : c &&& sh.mbz ≠ 0#32) :
    IllegalWord c :=
  illegalWord_of_decode_ne_ok fun _ h => hne ((decode_ok_iff_of_row hrow).1 h).1

theorem formR_of_row {make : Nat → Instr} {op : Byte} (hrow : (op, Shape.r make) ∈ opcodes) : FormR make op := by
  rintro c rfl
  have hmbz := (mbz_r_iff make c).trans and_comm
  exact ⟨fun h0 => (decode_ok_iff_of_row hrow).2 ⟨hmbz.2 h0, rfl⟩, fun hne => illegalWord_of_row hrow (mt hmbz.1 hne)⟩

theorem formG_of_row {make : Byte → Byte → Instr} {op : Byte} (hrow : (op, Shape.g make) ∈ opcodes) : FormG make op := by
  rintro c rfl
  have hmbz := mbz_g_iff make c
  exact ⟨fun h0 => (decode_ok_iff_of_row hrow).2 ⟨hmbz.2 h0, rfl⟩, fun hne => illegalWord_of_row hrow (mt hmbz.1 hne)⟩

/-! ### Columns and bytes of a state (R450) -/

theorem Quad.get_xor (p q : Quad) (c : Nat) : (p.xor q).get c = p.get c ^^^ q.get c := by
  match c with
  | 0 => rfl
  | 1 => rfl
  | 2 => rfl
  | _ + 3 => rfl

theorem Quad.get_same (w : Word) (c : Nat) : (⟨w, w, w, w⟩ : Quad).get c = w := by
  match c with
  | 0 => rfl
  | 1 => rfl
  | 2 => rfl
  | _ + 3 => rfl

theorem Quad.ext_get {x y : Quad} (h : ∀ c, c < 4 → x.get c = y.get c) : x = y :=
  (Quad.mk.injEq ..).mpr ⟨h 0 (by decide), h 1 (by decide), h 2 (by decide), h 3 (by decide)⟩

theorem byteOf_wordOf (b : Nat → Byte) {r : Nat} (hr : r < 4) : byteOf (wordOf (b 0) (b 1) (b 2) (b 3)) r = b r := by
  match r, hr with
  | 0, _ => exact byteOf_wordOf_zero ..
  | 1, _ => exact byteOf_wordOf_one ..
  | 2, _ => exact byteOf_wordOf_two ..
  | 3, _ => exact byteOf_wordOf_three ..

theorem word_ext_byteOf {v w : Word} (h : ∀ r, r < 4 → byteOf v r = byteOf w r) : v = w := by
  rw [← wordOf_byteOf v, h 0 (by decide), h 1 (by decide), h 2 (by decide), h 3 (by decide), wordOf_byteOf]

/-! ### SUBBYTES and INVSUBBYTES (R451, R452) -/

theorem byteOf_mapBytes (f : Byte → Byte) (w : Word) {r : Nat} (hr : r < 4) : byteOf (mapBytes f w) r = f (byteOf w r) :=
  byteOf_wordOf (fun k => f (byteOf w k)) hr

theorem byteOf_map_mapBytes (f : Byte → Byte) (q : Quad) (c : Nat) {r : Nat} (hr : r < 4) :
    byteOf ((q.map (mapBytes f)).get c) r = f (byteOf (q.get c) r) := by
  rw [Quad.get_map, byteOf_mapBytes f _ hr]

theorem sbox_ne_self : ∀ x, sbox x ≠ x := by decide

/-- Settles O38: both commands map a byte function over BLOCK. -/
theorem subBytesCommands : Obligations.SubBytesCommands :=
  ⟨formN_of_row (lookup_opcodes_iff.1 rfl), formN_of_row (lookup_opcodes_iff.1 rfl),
    fun s => ⟨subBytes s.block, invSubBytes s.block, rfl, rfl, fun c _ _ hr =>
      ⟨byteOf_map_mapBytes sbox s.block c hr, byteOf_map_mapBytes invSbox s.block c hr⟩⟩,
    sbox_ne_self, by decide, by decide, by decide, by decide⟩

/-! ### SHIFTROWS and INVSHIFTROWS (R453, R454) -/

theorem byteOf_gatherColumn (x : Quad) (col : Nat → Nat) {r : Nat} (hr : r < 4) :
    byteOf (gatherColumn x col) r = byteOf (x.get (col r)) r :=
  byteOf_wordOf (fun k => byteOf (x.get (col k)) k) hr

theorem get_shiftRows (x : Quad) {c : Nat} (hc : c < 4) : (shiftRows x).get c = gatherColumn x (fun r => (c + r) % 4) := by
  interval_cases c <;> rfl

theorem get_invShiftRows (x : Quad) {c : Nat} (hc : c < 4) :
    (invShiftRows x).get c = gatherColumn x (fun r => (4 + c - r) % 4) := by
  interval_cases c <;> rfl

theorem byteOf_shiftRows (x : Quad) {c r : Nat} (hc : c < 4) (hr : r < 4) :
    byteOf ((shiftRows x).get c) r = byteOf (x.get ((c + r) % 4)) r := by
  rw [get_shiftRows x hc, byteOf_gatherColumn x _ hr]

theorem byteOf_invShiftRows (x : Quad) {c r : Nat} (hc : c < 4) (hr : r < 4) :
    byteOf ((invShiftRows x).get ((c + r) % 4)) r = byteOf (x.get c) r := by
  have hback : (4 + (c + r) % 4 - r) % 4 = c := by omega
  rw [get_invShiftRows x (Nat.mod_lt _ (by decide)), byteOf_gatherColumn x _ hr, hback]

theorem gatherColumn_same (w : Word) (col : Nat → Nat) : gatherColumn ⟨w, w, w, w⟩ col = w := by
  simp [gatherColumn, Quad.get_same]

theorem shiftRows_same (w : Word) : shiftRows ⟨w, w, w, w⟩ = ⟨w, w, w, w⟩ := by
  simp [shiftRows, gatherColumn_same]

theorem invShiftRows_same (w : Word) : invShiftRows ⟨w, w, w, w⟩ = ⟨w, w, w, w⟩ := by
  simp [invShiftRows, gatherColumn_same]

/-- Row r moves by r columns each time, so by 4 r columns in four times. -/
theorem shiftRows_four (x : Quad) : shiftRows (shiftRows (shiftRows (shiftRows x))) = x := by
  refine Quad.ext_get fun c hc => word_ext_byteOf fun r hr => ?_
  have hmod : ∀ n, n % 4 < 4 := fun n => Nat.mod_lt n (by decide)
  have hturn : ((((c + r) % 4 + r) % 4 + r) % 4 + r) % 4 = c := by omega
  rw [byteOf_shiftRows _ hc hr, byteOf_shiftRows _ (hmod _) hr, byteOf_shiftRows _ (hmod _) hr,
    byteOf_shiftRows _ (hmod _) hr, hturn]

/-- Settles O39: both commands gather each column of BLOCK from the columns its rows come from. -/
theorem shiftRowsCommands : Obligations.ShiftRowsCommands :=
  ⟨formN_of_row (lookup_opcodes_iff.1 rfl), formN_of_row (lookup_opcodes_iff.1 rfl),
    fun s => ⟨shiftRows s.block, invShiftRows s.block, rfl, rfl, fun _ _ hc hr =>
      ⟨byteOf_shiftRows s.block hc hr, byteOf_invShiftRows s.block hc hr⟩⟩,
    fun w => ⟨shiftRows_same w, invShiftRows_same w⟩, shiftRows_four, by decide, by decide⟩

/-! ### ADDRK and ADDIRK (R458, R459) -/

theorem get_ramRound (ram : Vector Word 60) (r : Nat) {c : Nat} (hc : c < 4) :
    (ramRound ram r).get c = ram.toList.getD (4 * r + c) 0 := by
  interval_cases c <;> rfl

theorem get_addRoundKey (x : Quad) (k : Vector Word 60) (r : Nat) {c : Nat} (hc : c < 4) :
    (addRoundKey x k r).get c = x.get c ^^^ k.toList.getD (4 * r + c) 0 := by
  rw [addRoundKey, Quad.get_xor, get_ramRound k r hc]

theorem addRoundKey_twice (x : Quad) (k : Vector Word 60) (r : Nat) : addRoundKey (addRoundKey x k r) k r = x :=
  Quad.xor_xor_cancel x _

theorem withRound_beyond {s u : State} {r : Nat} (hk : s.keyReady = some u) (hr : u.nr.toNat < r) (k : State → Result) :
    withRound s r k = .next (u.raise .illegalCommand) := by
  rw [withRound, withKey_ok hk, if_pos hr]

theorem withRound_ok {s u : State} {r : Nat} (hk : s.keyReady = some u) (hr : r ≤ u.nr.toNat) (k : State → Result) :
    withRound s r k = k u := by
  rw [withRound, withKey_ok hk, if_neg (Nat.not_lt.mpr hr)]

theorem keyReady_block {s u : State} (h : s.keyReady = some u) : u.block = s.block := by rw [keyReady_frame h]

theorem keyReady_keyValid {s u : State} (h : s.keyReady = some u) : u.keyValid = true := by
  obtain ⟨hv, rfl⟩ | ⟨-, -, rfl⟩ := keyReady_some.1 h
  · exact hv
  · rfl

theorem exec_addrk {s u : State} {r : Nat} (hk : s.keyReady = some u) (hr : r ≤ u.nr.toNat) :
    exec (.addrk r) s = .next (u.withBlock (addRoundKey s.block u.rk r)).finish := by
  rw [← keyReady_block hk]; exact withRound_ok hk hr _

theorem exec_addirk {s u : State} {r : Nat} (hk : s.keyReady = some u) (hr : r ≤ u.nr.toNat) :
    exec (.addirk r) s = .next (u.withBlock (addRoundKey s.block u.irk r)).finish := by
  rw [← keyReady_block hk]; exact withRound_ok hk hr _

theorem keyReady_finish_withBlock {s u : State} (hk : s.keyReady = some u) (q : Quad) :
    (u.withBlock q).finish.keyReady = some (u.withBlock q).finish := by
  have hv : u.keyValid = true := keyReady_keyValid hk
  exact keyReady_some.2 (.inl ⟨hv, rfl⟩)

/-- The second ADDRK finds the key ready, and adds the same round key. -/
theorem runAll_addrk_twice {s u : State} {r : Nat} (hk : s.keyReady = some u) (hr : r ≤ u.nr.toNat) :
    ∃ t, runAll [.addrk r, .addrk r] s = .next t ∧ t.block = s.block := by
  have hk2 := keyReady_finish_withBlock hk (addRoundKey s.block u.rk r)
  exact ⟨_, andThen_next.2 ⟨_, exec_addrk hk hr, andThen_next.2 ⟨_, exec_addrk hk2 hr, rfl⟩⟩,
    addRoundKey_twice s.block u.rk r⟩

/-- With the key ready, a cache that is sound before holds the schedules of a legal key (R426). -/
theorem State.KeyCacheOk.ready {s u : State} (h : s.KeyCacheOk) (hk : s.keyReady = some u) :
    keyLenOk u.keyLen = true ∧ u.rk = ramOf (forwardOf u.keyLen u.key) ∧ u.irk = ramOf (inverseOf u.keyLen u.key) ∧
      u.nr = BitVec.ofNat 4 (nkOf u.keyLen + 6) := by
  obtain ⟨hv, rfl⟩ | ⟨-, hlen, rfl⟩ := keyReady_some.1 hk
  · rw [State.KeyCacheOk, if_pos hv] at h
    obtain ⟨hlen, hrk, hirk, -, hnr⟩ := h
    exact ⟨hlen, hrk, hirk, hnr⟩
  · exact ⟨hlen, rfl, rfl, rfl⟩

theorem get_ramRound_ramOf {w : List Word} (hw : w.length ≤ 60) {r c : Nat} (hc : c < 4) (hr : 4 * r + c < w.length) :
    (ramRound (ramOf w) r).get c = w.getD (4 * r + c) 0 := by
  rw [get_ramRound _ r hc, ramOf_getD hw (hr.trans_le hw), if_pos hr]

/-- The order of R422, on whole rounds of the two RAMs. -/
theorem ramRound_invKeyExpand {w : List Word} {nr : Nat} (hnr : nr = 10 ∨ nr = 12 ∨ nr = 14) (hw : w.length = 4 * (nr + 1))
    {r : Nat} (hr : r ≤ nr) :
    ramRound (ramOf (invKeyExpand w nr)) r =
      if r = 0 ∨ r = nr then ramRound (ramOf w) (nr - r) else invMixColumns (ramRound (ramOf w) (nr - r)) := by
  refine Quad.ext_get fun c hc => ?_
  obtain ⟨hlen, horder⟩ := inverseScheduleOrder w nr hnr hw
  have hsize : 4 * (nr + 1) ≤ 60 := by omega
  have hforward : (ramRound (ramOf w) (nr - r)).get c = w.getD (4 * (nr - r) + c) 0 :=
    get_ramRound_ramOf (by omega) hc (by omega)
  rw [get_ramRound_ramOf (by omega) hc (by omega), horder r c hr hc]
  split
  · exact hforward.symm
  · rw [invMixColumns, Quad.get_map, hforward]

theorem ramRound_irk {s u : State} (h : s.KeyCacheOk) (hk : s.keyReady = some u) {r : Nat} (hr : r ≤ u.nr.toNat) :
    ramRound u.irk r = if r = 0 ∨ r = u.nr.toNat then ramRound u.rk (u.nr.toNat - r)
      else invMixColumns (ramRound u.rk (u.nr.toNat - r)) := by
  obtain ⟨hlen, hrk, hirk, hnr⟩ := h.ready hk
  have hlegal := keyLenOk_iff.1 hlen
  have hnk := nkOf_cases hlegal
  have hnat : u.nr.toNat = nkOf u.keyLen + 6 := by
    rw [hnr, BitVec.toNat_ofNat]; omega
  rw [hnat] at hr ⊢
  rw [hrk, hirk]
  exact ramRound_invKeyExpand (by omega) (forwardOf_length hlegal u.key) hr

/-- Settles O41: the checks come in the order of `withRound`; the relation of IRK to RK is the order of the inverse schedule. -/
theorem roundKeyCommands : Obligations.RoundKeyCommands :=
  ⟨formR_of_row (lookup_opcodes_iff.1 rfl), formR_of_row (lookup_opcodes_iff.1 rfl),
    fun _ _ hk => ⟨withKey_none hk _, withKey_none hk _⟩,
    fun s u r hk => ⟨fun hr => ⟨withRound_beyond hk hr _, withRound_beyond hk hr _⟩,
      fun hr => ⟨⟨addRoundKey s.block u.rk r, addRoundKey s.block u.irk r, exec_addrk hk hr, exec_addirk hk hr,
        fun _ hc => ⟨get_addRoundKey s.block u.rk r hc, get_addRoundKey s.block u.irk r hc⟩⟩, runAll_addrk_twice hk hr⟩⟩,
    fun _ _ h hk _ hr => ramRound_irk h hk hr⟩

/-! ### GFMUL (R462) -/

theorem exec_gfmul (a b : Byte) (s : State) :
    exec (.gfmul a b) s = .next ({ s with result := 0#24 ++ gmul a b } : State).finish := by
  have hextend : (gmul a b).setWidth 32 = 0#24 ++ gmul a b := BitVec.setWidth_eq_append (by decide)
  rw [← hextend]; rfl

/-- Settles O42: the zero-extended product, with the laws of R410; the example is GA = 0x57, GB = 0x83. -/
theorem gfmulCommand : Obligations.GfmulCommand := by
  have hdecode : decode 0x83570020 = .ok (.gfmul 0x57 0x83) := by decide
  have hproduct : 0#24 ++ gmul 0x57 0x83 = 0x000000c1#32 := by decide
  refine ⟨formG_of_row (lookup_opcodes_iff.1 rfl), exec_gfmul,
    fun a b => ⟨gmul_comm a b, (gmul_comm a 0).trans (zero_gmul a), one_gmul b⟩, fun s => ?_⟩
  rw [runCommand_ok hdecode, exec_gfmul, hproduct]; rfl

end Sys2Proof.Machine
end

section
/-! AesBlock: the ciphers as folds over their rounds, and AES_ENC and AES_DEC (43_aes_block.md R480 to R483). -/

namespace Sys2Proof.Machine

/-! ### The ciphers (R480, R481) -/

theorem encRounds_eq_foldl (rk : Vector Word 60) (n r : Nat) (x : Quad) :
    encRounds rk n r x =
      (List.range' r n).foldl (fun y k => addRoundKey (mixColumns (shiftRows (subBytes y))) rk k) x := by
  induction n generalizing r x with
  | zero => rfl
  | succ n ih => exact ih (r + 1) _

theorem decRounds_eq_foldl (irk : Vector Word 60) (n r : Nat) (x : Quad) :
    decRounds irk n r x =
      (List.range' r n).foldl (fun y k => addRoundKey (invMixColumns (invSubBytes (invShiftRows y))) irk k) x := by
  induction n generalizing r x with
  | zero => rfl
  | succ n ih => exact ih (r + 1) _

theorem aesEncrypt_eq_encFold (rk : Vector Word 60) (nr : Nat) (x : Quad) : aesEncrypt rk nr x = encFold rk nr x := by
  rw [aesEncrypt, encRounds_eq_foldl, encFold]

theorem aesDecrypt_eq_decFold (irk : Vector Word 60) (nr : Nat) (x : Quad) : aesDecrypt irk nr x = decFold irk nr x := by
  rw [aesDecrypt, decRounds_eq_foldl, decFold]

/-! ### AES_ENC and AES_DEC (R482, R483) -/

theorem exec_aesEnc {s u : State} (hk : s.keyReady = some u) :
    exec .aesEnc s = .next (u.withBlock (aesEncrypt u.rk u.nr.toNat s.block)).finish := by
  rw [← keyReady_block hk]; exact withKey_ok hk _

theorem exec_aesDec {s u : State} (hk : s.keyReady = some u) :
    exec .aesDec s = .next (u.withBlock (aesDecrypt u.irk u.nr.toNat s.block)).finish := by
  rw [← keyReady_block hk]; exact withKey_ok hk _

/-- Settles O43: both commands are KeyReady and the cipher, whose recursion over the rounds is the fold of R480 and R481. -/
theorem aesBlockCommands : Obligations.AesBlockCommands := by
  refine ⟨formN_of_row (lookup_opcodes_iff.1 rfl), formN_of_row (lookup_opcodes_iff.1 rfl),
    fun _ hk => ⟨withKey_none hk _, withKey_none hk _⟩, fun s u hk => ⟨?_, ?_⟩⟩
  · rw [exec_aesEnc hk, aesEncrypt_eq_encFold]; rfl
  · rw [exec_aesDec hk, aesDecrypt_eq_decFold]; rfl

end Sys2Proof.Machine
end

section
/-! Cbc: the chaining commands on BLOCK and on a buffer that does not partially overlap its output (44_cbc.md R500 to R505,
20_memory.md R209, R210). -/

namespace Sys2Proof.Machine

/-! ### CBC_ENC_BLK and CBC_DEC_BLK (R502, R503) -/

theorem keyReady_chain {s u : State} (h : s.keyReady = some u) : u.chain = s.chain := by rw [keyReady_frame h]

theorem exec_cbcEncBlk {s u : State} (hk : s.keyReady = some u) :
    exec .cbcEncBlk s = .next ({ u with
      block := aesEncrypt u.rk u.nr.toNat (s.block.xor s.chain)
      chain := aesEncrypt u.rk u.nr.toNat (s.block.xor s.chain) } : State).finish := by
  rw [← keyReady_block hk, ← keyReady_chain hk]; exact withKey_ok hk _

theorem exec_cbcDecBlk {s u : State} (hk : s.keyReady = some u) :
    exec .cbcDecBlk s = .next ({ u with
      block := (aesDecrypt u.irk u.nr.toNat s.block).xor s.chain
      chain := s.block } : State).finish := by
  rw [← keyReady_block hk, ← keyReady_chain hk]; exact withKey_ok hk _

/-- Settles O46: one chaining step on the ready key, whose exclusive-or with CHAIN = 0 changes nothing. -/
theorem cbcBlockCommands : Obligations.CbcBlockCommands := by
  refine ⟨formN_of_row (lookup_opcodes_iff.1 rfl), formN_of_row (lookup_opcodes_iff.1 rfl),
    fun _ hk => ⟨withKey_none hk _, withKey_none hk _⟩, fun s u hk => ⟨?_, ?_⟩, fun s u hk h0 => ?_⟩
  · rw [exec_cbcEncBlk hk, aesEncrypt_eq_encFold]; rfl
  · rw [exec_cbcDecBlk hk, aesDecrypt_eq_decFold]; rfl
  · have hxor (q : Quad) : q.xor s.chain = q := by rw [h0]; exact Quad.xor_zero q
    exact ⟨⟨_, _, exec_cbcEncBlk hk, exec_aesEnc hk, congrArg (aesEncrypt u.rk u.nr.toNat) (hxor s.block)⟩,
      ⟨_, _, exec_cbcDecBlk hk, exec_aesDec hk, hxor _⟩⟩

/-! ### Output of computed blocks -/

/-- What a run of blocks leaves of a state: the bytes `vs` stand from `b` on, CHAIN is `c`, and nothing else changes. -/
structure ChainOutput (s t : State) (b : Nat) (vs : List Byte) (c : Quad) : Prop where
  same : t = { s with dmem := t.dmem, chain := c }
  stores : StoresOnly s t b vs

namespace ChainOutput

variable {s t u : State} {b : Nat} {vs ws : List Byte} {c d : Quad}

theorem refl (s : State) (b : Nat) : ChainOutput s s b [] s.chain where
  same := rfl
  stores _ := (if_neg (by simp)).symm

theorem trans (h : ChainOutput s u b vs c) (g : ChainOutput u t (b + vs.length) ws d) : ChainOutput s t b (vs ++ ws) d where
  same := by rw [g.same, h.same]
  stores o := by
    rw [g.stores, h.stores, List.length_append]
    by_cases hw : b + vs.length ≤ o ∧ o < b + vs.length + ws.length
    · rw [if_pos hw, if_pos (by omega), List.getElem?_append_right (by omega), Nat.sub_sub]
    · rw [if_neg hw]
      by_cases hv : b ≤ o ∧ o < b + vs.length
      · rw [if_pos hv, if_pos (by omega), List.getElem?_append_left (by omega)]
      · rw [if_neg hv, if_neg (by omega)]

theorem memWrite (s : State) (c : Quad) (b : Nat) (vs : List Byte) : ChainOutput s ((s.withChain c).memWrite b vs) b vs c where
  same := rfl
  stores := storesOnly_memWrite (s.withChain c) b vs

end ChainOutput

/-! ### The blocks of a buffer, one after another -/

/-- Blocks stored one after another from `b` on. -/
def storeBlocks (store : State → Nat → Quad → State) : Nat → List Quad → State → State
  | _, [], s => s
  | b, q :: qs, s => storeBlocks store (b + 16) qs (store s b q)

/-- The blocks of a byte string of at least one whole block are its first and those of the rest. -/
theorem blocksOf_eq_cons {m : List Byte} (h : 16 ≤ m.length) : blocksOf m = load16 (m.take 16) :: blocksOf (m.drop 16) := by
  have hn : m.length / 16 = (m.drop 16).length / 16 + 1 := by rw [List.length_drop]; omega
  rw [blocksOf, hn, List.range_succ_eq_map, List.map_cons, List.map_map, blocksOf]
  refine congrArg (List.cons _) (List.map_congr_left fun k _ => ?_)
  rw [Function.comp_apply, List.drop_drop, show 16 * k.succ = 16 + 16 * k by omega]

/-- A read of a region sees nothing of what changes outside it. -/
theorem memRead_of_agree {s t : State} {a n : Nat} {m : List Byte} (h : s.memRead a n = .ok m)
    (he : ∀ k, k < n → t.dmemByte (a + k) = s.dmemByte (a + k)) : t.memRead a n = .ok m := by
  obtain ⟨hl, hb⟩ := (s.memRead_ok n a m).1 h
  exact (t.memRead_ok n a m).2 ⟨hl, fun k hk => (he k hk).trans (hb k hk)⟩

/-- A loop that reads block after block and stores each, in place or apart, stores the blocks its source held at the start. -/
theorem loop_eq_storeBlocks {loop : Nat → Nat → Nat → State → Result} {store : State → Nat → Quad → State}
    (hzero : ∀ a b s, loop 0 a b s = .next s)
    (hsucc : ∀ n a b s, loop (n + 1) a b s = withBytes s a 16 fun vs => loop n (a + 16) (b + 16) (store s b (load16 vs)))
    (hstore : ∀ s b q, RegionFrame s (store s b q) b 16) (n : Nat) : ∀ (a b : Nat) (s : State) (m : List Byte),
    s.memRead a (16 * n) = .ok m → inPlaceOrApart a (16 * n) b (16 * n) →
      loop n a b s = .next (storeBlocks store b (blocksOf m) s) := by
  induction n with
  | zero =>
    intro a b s m hm _
    obtain rfl := List.length_eq_zero_iff.1 (State.memRead_length hm)
    exact hzero a b s
  | succ n ih =>
    intro a b s m hm ho
    have hl := State.memRead_length hm
    have hfirst : s.memRead a 16 = .ok (m.take 16) := memRead_sub hm (j := 0) (by omega)
    have hrest : s.memRead (a + 16) (16 * n) = .ok (m.drop 16) := by
      rw [memRead_sub hm (by omega), List.take_of_length_le (by rw [List.length_drop]; omega)]
    unfold inPlaceOrApart at ho
    rw [hsucc, withBytes_ok hfirst, blocksOf_eq_cons (by omega)]
    exact ih _ _ _ _ (memRead_of_agree hrest fun k hk => (hstore s b _).outside _ (by omega)) (by unfold inPlaceOrApart; omega)

/-- R500 on the blocks of a list: the ciphertext is stored, and CHAIN is its last block. -/
theorem storeBlocks_cbcEncTo (ps : List Quad) : ∀ (b : Nat) (s : State),
    ChainOutput s (storeBlocks (fun s => s.cbcEncTo false) b ps s) b
      ((cbcEncBlocks (aesEncrypt s.rk s.nr.toNat) s.chain ps).flatMap store16)
      ((cbcEncBlocks (aesEncrypt s.rk s.nr.toNat) s.chain ps).getLastD s.chain) := by
  induction ps with
  | nil => exact fun b s => .refl s b
  | cons p ps ih =>
    intro b s
    rw [cbcEncBlocks, List.getLastD_cons, List.flatMap_cons]
    exact (ChainOutput.memWrite s _ b (store16 _)).trans (ih (b + 16) (s.cbcEncTo false b p))

/-- R501 on the blocks of a list: the plaintext is stored, and CHAIN is the last block decrypted. -/
theorem storeBlocks_cbcDecTo (cs : List Quad) : ∀ (b : Nat) (s : State),
    ChainOutput s (storeBlocks (fun s => s.cbcDecTo false) b cs s) b
      ((cbcDecBlocks (aesDecrypt s.irk s.nr.toNat) s.chain cs).flatMap store16) (cs.getLastD s.chain) := by
  induction cs with
  | nil => exact fun b s => .refl s b
  | cons c cs ih =>
    intro b s
    rw [cbcDecBlocks, List.getLastD_cons, List.flatMap_cons]
    exact (ChainOutput.memWrite s c b (store16 _)).trans (ih (b + 16) (s.cbcDecTo false b c))

section

variable {s : State} {a b n : Nat} {m : List Byte} (hn : n % 16 = 0) (hm : s.memRead a n = .ok m) (ho : inPlaceOrApart a n b n)

include hn hm ho

theorem cbcEncLoop_output : ∃ t, cbcEncLoop false (n / 16) a b s = .next t ∧
    ChainOutput s t b ((cbcCipher s m).flatMap store16) ((cbcCipher s m).getLastD s.chain) := by
  have he : 16 * (n / 16) = n := by omega
  exact ⟨_, loop_eq_storeBlocks (fun _ _ _ => rfl) (fun _ _ _ _ => rfl) (fun s => cbcEncTo_frame s false) (n / 16) a b s m
    (by rwa [he]) (by rwa [he]), storeBlocks_cbcEncTo (blocksOf m) b s⟩

theorem cbcDecLoop_output : ∃ t, cbcDecLoop false (n / 16) a b s = .next t ∧
    ChainOutput s t b (cbcPlain s m) ((blocksOf m).getLastD s.chain) := by
  have he : 16 * (n / 16) = n := by omega
  exact ⟨_, loop_eq_storeBlocks (fun _ _ _ => rfl) (fun _ _ _ _ => rfl) (fun s => cbcDecTo_frame s false) (n / 16) a b s m
    (by rwa [he]) (by rwa [he]), storeBlocks_cbcDecTo (blocksOf m) b s⟩

end

/-! ### CBC_ENC_BUF and CBC_DEC_BUF (R504, R505) -/

theorem partialOverlap_of_inPlaceOrApart {a k b n : Nat} (h : inPlaceOrApart a k b n) : partialOverlap a k b n = false := by
  unfold inPlaceOrApart at h
  simp only [partialOverlap, regionsMeet, Bool.and_eq_false_iff, decide_eq_false_iff_not]
  omega

/-- KeyReady leaves the source region as it was. -/
theorem keyReady_source_read {s u : State} {m : List Byte} (hk : s.keyReady = some u) (hm : s.memRead s.src s.srcL = .ok m) :
    u.memRead u.src u.srcL = .ok m := by
  obtain ⟨hsrc, hlen, -⟩ := keyReady_operands hk
  rwa [hsrc, hlen, memRead_congr (keyReady_dmemByte hk)]

/-- What a run of blocks to DST and the length in RES_LEN say of the state the command began in: KeyReady leaves DMEM alone. -/
theorem ChainOutput.outcome {s u v : State} {vs : List Byte} {c : Quad} (hk : s.keyReady = some u)
    (h : ChainOutput u v u.dst vs c) (r : Nat) :
    StoresOnly s (v.withResLen r).finish s.dst vs ∧
      (v.withResLen r).finish =
        ({ u with dmem := (v.withResLen r).finish.dmem, chain := c, resLen := BitVec.ofNat 32 r } : State).finish := by
  obtain ⟨-, -, hdst⟩ := keyReady_operands hk
  refine ⟨fun o => ?_, congrArg (fun w : State => (w.withResLen r).finish) h.same⟩
  rw [← hdst, ← keyReady_dmemByte hk]
  exact h.stores o

theorem ofNat_srcL (s : State) : BitVec.ofNat 32 s.srcL = s.srcLen := by rw [State.srcL, BitVec.ofNat_toNat, BitVec.setWidth_eq]

/-- A buffer command whose checks pass completes with the output of its loop over the source, in place or apart. -/
theorem withCbcBuffer_output {s u : State} {m vs : List Byte} {c : Quad} {loop : Bool → Nat → Nat → Nat → State → Result}
    (hs : s.regionOk s.src s.srcL = true) (hd : s.regionOk s.dst s.srcL = true) (hk : s.keyReady = some u)
    (hl : s.srcL % 16 = 0) (ho : inPlaceOrApart s.src s.srcL s.dst s.srcL) (hm : s.memRead s.src s.srcL = .ok m)
    (hloop : u.srcL % 16 = 0 → u.memRead u.src u.srcL = .ok m → inPlaceOrApart u.src u.srcL u.dst u.srcL →
      ∃ v, loop false (u.srcL / 16) u.src u.dst u = .next v ∧ ChainOutput u v u.dst vs c) :
    ∃ t, withCbcBuffer s (fun t => andThen (loop (partialOverlap t.src t.srcL t.dst t.srcL) (t.srcL / 16) t.src t.dst t)
        (fun v => .next (v.withResLen t.srcL).finish)) = .next t ∧
      StoresOnly s t s.dst vs ∧ t = ({ u with dmem := t.dmem, chain := c, resLen := s.srcLen } : State).finish := by
  obtain ⟨hsrc, hlen, hdst⟩ := keyReady_operands hk
  rw [← hlen] at hl
  rw [← hsrc, ← hlen, ← hdst] at ho
  obtain ⟨v, hv, hout⟩ := hloop hl (keyReady_source_read hk hm) ho
  refine ⟨(v.withResLen u.srcL).finish, ?_, ?_⟩
  · rw [withCbcBuffer_ok hs hd hk hl, partialOverlap_of_inPlaceOrApart ho, hv]; rfl
  · rw [← ofNat_srcL, ← hlen]
    exact hout.outcome hk u.srcL

/-- Settles O47: every block is read as it stood at the start, and the chain of R500 goes through them. -/
theorem cbcEncBufCommand : Obligations.CbcEncBufCommand := by
  refine ⟨formN_of_row (lookup_opcodes_iff.1 rfl), fun s u m hs hd hk hl ho hm => ?_⟩
  rw [← keyReady_chain hk]
  exact withCbcBuffer_output hs hd hk hl ho hm cbcEncLoop_output

/-- Settles O48: every block is read as it stood at the start, and the chain of R501 goes through them. -/
theorem cbcDecBufCommand : Obligations.CbcDecBufCommand := by
  refine ⟨formN_of_row (lookup_opcodes_iff.1 rfl), fun s u m hs hd hk hl ho hm => ?_⟩
  rw [← keyReady_chain hk]
  exact withCbcBuffer_output hs hd hk hl ho hm cbcDecLoop_output

end Sys2Proof.Machine
end

section
/-! Pkcs7: PAD and UNPAD, and ENCRYPT and DECRYPT of a buffer that does not partially overlap its output (45_pkcs7.md R530 to
R535, 20_memory.md R210). -/

namespace Sys2Proof.Machine

/-! ### Checks that fail -/

theorem withRegion_bad {s : State} {a n : Nat} (h : s.regionOk a n = false) (k : Result) :
    withRegion s a n k = .next (s.raise .addressError) := by
  simp [withRegion, h]

theorem withUnpad_bad {n len : Nat} (h : n = 0 ∨ 16 < n ∨ len < n) (s : State) (k : Nat → Result) :
    withUnpad s n len k = .next (s.raise .invalidPadding) := by
  have hbad : unpadOk n len = false := by
    simp only [unpadOk, Bool.and_eq_false_iff, decide_eq_false_iff_not]; omega
  exact withUnpad_next.2 (.inr ⟨hbad, rfl⟩)

/-! ### PAD and UNPAD (R531, R533) -/

/-- Settles O50: past CheckRegion the command is one write, of the padding. -/
theorem padCommand : Obligations.PadCommand := by
  refine ⟨formN_of_row (lookup_opcodes_iff.1 rfl), fun s => ⟨fun hbad => withRegion_bad hbad _, fun hs => ?_⟩⟩
  exact ⟨_, withRegion_ok hs _, storesOnly_memWrite s _ _, rfl⟩

theorem memRead_one {s : State} {a : Nat} {v : Byte} (h : s.dmemByte a = some v) : s.memRead a 1 = .ok [v] := by
  simp only [State.memRead, h]

/-- UNPAD of a nonempty region is the padding check on its last byte. -/
theorem execUnpad_ok {s : State} {v : Byte} (hs : s.regionOk s.src s.srcL = true) (h0 : s.srcL ≠ 0)
    (hv : s.dmemByte (s.src + s.srcL - 1) = some v) :
    execUnpad s = withUnpad s v.toNat s.srcL fun n => .next (s.withResLen (s.srcL - n)).finish := by
  rw [execUnpad, withRegion_ok hs, if_neg h0, withBytes_ok (memRead_one hv)]
  rfl

/-- Settles O51, by the two outcomes of the padding check. -/
theorem unpadCommand : Obligations.UnpadCommand := by
  refine ⟨formN_of_row (lookup_opcodes_iff.1 rfl), fun s => ⟨fun hbad => withRegion_bad hbad _, fun hs h0 => ?_,
    fun v hs h0 hv => (execUnpad_ok hs h0 hv).trans ?_⟩⟩
  · exact (withRegion_ok hs _).trans (if_pos h0)
  · have hzero : v = 0 ↔ v.toNat = 0 := BitVec.toNat_eq
    split
    · next hbad => exact withUnpad_bad (by rwa [hzero] at hbad) s _
    · next hgood =>
      rw [hzero] at hgood
      exact withUnpad_ok (by omega) (by omega) (by omega) s _

/-! ### ENCRYPT (R534) -/

/-- A byte string of whole blocks is stored as its blocks, each encrypted. -/
theorem cbcEncString_eq_storeBlocks (n : Nat) : ∀ (b : Nat) (m : List Byte) (s : State), m.length = 16 * n →
    cbcEncString false n b m s = storeBlocks (fun s => s.cbcEncTo false) b (blocksOf m) s := by
  induction n with
  | zero =>
    intro b m s hm
    obtain rfl := List.length_eq_zero_iff.1 hm
    rfl
  | succ n ih =>
    intro b m s hm
    rw [blocksOf_eq_cons (by omega)]
    exact ih _ _ _ (by rw [List.length_drop]; omega)

theorem cbcEncString_output {n : Nat} {m : List Byte} (hn : n % 16 = 0) (hm : m.length = n) (b : Nat) (s : State) :
    ChainOutput s (cbcEncString false (n / 16) b m s) b ((cbcCipher s m).flatMap store16)
      ((cbcCipher s m).getLastD s.chain) := by
  rw [cbcEncString_eq_storeBlocks _ _ _ _ (by omega)]
  exact storeBlocks_cbcEncTo (blocksOf m) b s

/-- ENCRYPT past its checks, in place or apart: the padded source is encrypted to DST. -/
theorem execEncrypt_ok {s u : State} {m : List Byte} {n : Nat} (hn : n = s.srcL + padCount s.srcL)
    (hs : s.regionOk s.src s.srcL = true) (hd : s.regionOk s.dst n = true) (hk : s.keyReady = some u)
    (ho : inPlaceOrApart s.src s.srcL s.dst n) (hm : s.memRead s.src s.srcL = .ok m) :
    execEncrypt s =
      .next ((cbcEncString false (n / 16) u.dst (m ++ padBytes s.srcL) u).withResLen n).finish := by
  obtain ⟨hsrc, hlen, hdst⟩ := keyReady_operands hk
  rw [execEncrypt, ← hn, withRegion_ok hs, withRegion_ok hd, withKey_ok hk, withBytes_ok (keyReady_source_read hk hm), hsrc,
    hlen, hdst, partialOverlap_of_inPlaceOrApart ho]

/-- Settles O52: the padded source is whole blocks, and the chain of R500 goes through them. -/
theorem encryptCommand : Obligations.EncryptCommand := by
  refine ⟨formN_of_row (lookup_opcodes_iff.1 rfl), fun s u m hs hd hk ho hm => ?_⟩
  obtain ⟨-, -, hmod⟩ := padCount_bounds s.srcL
  have hlen : (m ++ padBytes s.srcL).length = s.srcL + padCount s.srcL := by
    rw [List.length_append, State.memRead_length hm, padBytes_length]
  rw [← keyReady_chain hk]
  exact ⟨_, execEncrypt_ok rfl hs hd hk ho hm, (cbcEncString_output hmod hlen u.dst u).outcome hk _⟩

/-! ### DECRYPT (R535) -/

/-- DECRYPT of whole blocks, at least one, is the padding check on the last plaintext byte, then the decryption. -/
theorem execDecrypt_ok {s u : State} {m : List Byte} (hs : s.regionOk s.src s.srcL = true)
    (hd : s.regionOk s.dst s.srcL = true) (hk : s.keyReady = some u) (hl : s.srcL % 16 = 0) (h0 : s.srcL ≠ 0)
    (hm : s.memRead s.src s.srcL = .ok m) :
    execDecrypt s = withUnpad u ((cbcPlain u m).getLastD 0).toNat s.srcL fun n =>
      andThen (cbcDecLoop (partialOverlap s.src s.srcL s.dst s.srcL) (s.srcL / 16) s.src s.dst u)
        fun v => .next (v.withResLen (s.srcL - n)).finish := by
  obtain ⟨hsrc, hlen, hdst⟩ := keyReady_operands hk
  rw [execDecrypt, withCbcBuffer_ok hs hd hk (by rwa [hlen]), if_neg (by rwa [hlen]),
    withLastPlain_ok (keyReady_source_read hk hm) (by rwa [hlen]) (by rwa [hlen]), hsrc, hlen, hdst]

/-- Settles O53, by the two outcomes of the padding check; a count of at most 16 lies within the message. -/
theorem decryptCommand : Obligations.DecryptCommand := by
  refine ⟨formN_of_row (lookup_opcodes_iff.1 rfl), fun s u m hs hd hk hl h0 hm =>
    ⟨fun hbad => (execDecrypt_ok hs hd hk hl h0 hm).trans (withUnpad_bad (by omega) u _), fun h1 h16 ho => ?_⟩⟩
  obtain ⟨hsrc, hlen, hdst⟩ := keyReady_operands hk
  have hread := keyReady_source_read hk hm
  rw [hsrc, hlen] at hread
  obtain ⟨v, hv, hout⟩ := cbcDecLoop_output hl hread ho
  rw [← hdst] at hout
  rw [← keyReady_chain hk]
  refine ⟨_, (execDecrypt_ok hs hd hk hl h0 hm).trans ?_, hout.outcome hk _⟩
  rw [withUnpad_ok h1 h16 (by omega), partialOverlap_of_inPlaceOrApart ho, hv]
  rfl

end Sys2Proof.Machine
end

section
/-! Compression: the tables and functions of MD5 and SHA-256, and their compression functions (46_md5.md R571 to R578,
47_sha256.md R601 to R606). -/

namespace Sys2Proof.Machine

/-! ### Words from bytes, and rotations (00_scope.md R10, R12) -/

theorem toNat_wordOf (b0 b1 b2 b3 : Byte) :
    (wordOf b0 b1 b2 b3).toNat = b0.toNat * 2 ^ 24 + b1.toNat * 2 ^ 16 + b2.toNat * 2 ^ 8 + b3.toNat := by
  rw [wordOf, BitVec.toNat_append, BitVec.toNat_append, BitVec.toNat_append, ← Nat.shiftLeft_add_eq_or_of_lt b1.isLt,
    ← Nat.shiftLeft_add_eq_or_of_lt b2.isLt, ← Nat.shiftLeft_add_eq_or_of_lt b3.isLt]
  omega

/-- A word is the sum of its bytes, each shifted to its place. -/
theorem wordOf_eq_sum (b0 b1 b2 b3 : Byte) :
    wordOf b3 b2 b1 b0 =
      b0.setWidth 32 + (b1.setWidth 32 <<< 8) + (b2.setWidth 32 <<< 16) + (b3.setWidth 32 <<< 24) := by
  apply BitVec.eq_of_toNat_eq
  simp only [toNat_wordOf, BitVec.toNat_add, BitVec.toNat_shiftLeft, BitVec.toNat_setWidth, Nat.shiftLeft_eq]
  omega

theorem rotl32_eq_rotateLeft (x : Word) {n : Nat} (h : n < 32) : rotl32 x n = x.rotateLeft n := by
  rw [BitVec.rotateLeft_def, Nat.mod_eq_of_lt h]; rfl

theorem rotr32_eq_rotateRight (x : Word) {n : Nat} (h : n < 32) : rotr32 x n = x.rotateRight n := by
  rw [BitVec.rotateRight_def, Nat.mod_eq_of_lt h]; rfl

/-! ### MD5 (R571 to R578) -/

theorem map_md5T : (List.range 64).map md5T = tableT := by decide

/-- The rotate amounts, a row of four for each round of sixteen steps (R572). -/
theorem md5Shift_rows : ∀ i < 64, md5Shift i =
    (([[7, 12, 17, 22], [5, 9, 14, 20], [4, 11, 16, 23], [6, 10, 15, 21]] : List (List Nat)).getD (i / 16) []).getD (i % 4) 0 := by
  decide

theorem md5Shift_lt : ∀ i < 64, md5Shift i < 32 := by decide

theorem md5Index_rounds {i : Nat} (h : i < 16) :
    md5Index i = i ∧ md5Index (i + 16) = (5 * (i + 16) + 1) % 16 ∧ md5Index (i + 32) = (3 * (i + 32) + 5) % 16 ∧
      md5Index (i + 48) = 7 * (i + 48) % 16 := by
  have h32 : ¬ i + 32 < 16 := by omega
  have h48 : ¬ i + 48 < 16 ∧ ¬ i + 48 < 32 := by omega
  simp [md5Index, h, h32, h48]

theorem md5Index_lt (i : Nat) : md5Index i < 16 := by
  rw [md5Index]
  split_ifs <;> omega

theorem md5Words_getD (b : List Byte) {j : Nat} (h : j < 16) : (md5Words b).getD j 0 = leWord b (4 * j) := by
  simp [md5Words, h]

theorem md5Steps_eq_foldl (m : List Word) (n : Nat) : ∀ (i : Nat) (q : Quad),
    md5Steps m n i q = (List.range' i n).foldl (fun q i => md5Step m i q) q := by
  induction n with
  | zero => intro i q; rfl
  | succ n ih => intro i q; exact ih (i + 1) (md5Step m i q)

/-- A step below 64 reads one of the sixteen message words and rotates by less than 32. -/
theorem md5Step_eq (b : List Byte) {i : Nat} (h : i < 64) (q : Quad) :
    md5Step (md5Words b) i q =
      ⟨q.w3, q.w1 + (q.w0 + md5Fun i q.w1 q.w2 q.w3 + md5T i + leWord b (4 * md5Index i)).rotateLeft (md5Shift i), q.w1, q.w2⟩ := by
  rw [md5Step, md5Words_getD b (md5Index_lt i), rotl32_eq_rotateLeft _ (md5Shift_lt i h)]

/-! ### The message schedule of SHA-256 (R604) -/

/-- The schedule word of index `i`, at least 16, that the recurrence makes of the words `w`. -/
def scheduleWord (w : List Word) (i : Nat) : Word :=
  shaSig1 (w.getD (i - 2) 0) + w.getD (i - 7) 0 + shaSig0 (w.getD (i - 15) 0) + w.getD (i - 16) 0

/-- From index 16 on, each word of `w` is the one the recurrence gives. -/
def FollowsSchedule (w : List Word) : Prop := ∀ i, 16 ≤ i → i < w.length → w.getD i 0 = scheduleWord w i

theorem scheduleWord_append {w : List Word} {i : Nat} (h16 : 16 ≤ i) (hi : i ≤ w.length) (v : List Word) :
    scheduleWord (w ++ v) i = scheduleWord w i := by
  simp only [scheduleWord]
  repeat rw [List.getD_append _ _ _ _ (by omega)]

theorem FollowsSchedule.snoc {w : List Word} (h : FollowsSchedule w) :
    FollowsSchedule (w ++ [scheduleWord w w.length]) := by
  intro i h16 hlt
  rw [List.length_append, List.length_singleton] at hlt
  rw [scheduleWord_append h16 (by omega)]
  obtain hlt | rfl : i < w.length ∨ i = w.length := by omega
  · rw [List.getD_append _ _ _ i hlt, h i h16 hlt]
  · simp

/-- A round of the loop of R604 appends the word of the next index; the loop holds its words newest first. -/
theorem shaExtend_reverse_succ (n : Nat) {w : List Word} (hw : 16 ≤ w.length) :
    shaExtend (n + 1) w.reverse = shaExtend n (w ++ [scheduleWord w w.length]).reverse := by
  have hnewest : ∀ k < 16, w.reverse.getD k 0 = w.getD (w.length - (k + 1)) 0 := fun k hk => by
    rw [List.getD_reverse _ (by omega)]; congr 1; omega
  rw [shaExtend, hnewest 1 (by decide), hnewest 6 (by decide), hnewest 14 (by decide), hnewest 15 (by decide),
    List.reverse_append]
  rfl

/-- The loop of R604 keeps the words it has, and goes on by the recurrence. -/
theorem shaExtend_spec (n : Nat) : ∀ w : List Word, 16 ≤ w.length → FollowsSchedule w →
    ∃ v, (shaExtend n w.reverse).reverse = w ++ v ∧ v.length = n ∧ FollowsSchedule (w ++ v) := by
  induction n with
  | zero => intro w _ h; exact ⟨[], by simp [shaExtend], rfl, by simpa using h⟩
  | succ n ih =>
    intro w hw h
    obtain ⟨v, he, hv, hr⟩ := ih (w ++ [scheduleWord w w.length]) (by simp; omega) h.snoc
    rw [List.append_assoc] at he hr
    exact ⟨_ :: v, by rw [shaExtend_reverse_succ n hw, he]; rfl, by simp [hv], hr⟩

/-- The schedule of a block is its sixteen big-endian words and the 48 that the recurrence makes of them. -/
theorem shaSchedule_spec (b : List Byte) :
    ∃ v, shaSchedule b = (List.range 16).map (fun t => beWord b (4 * t)) ++ v ∧ v.length = 48 ∧
      FollowsSchedule (shaSchedule b) := by
  obtain ⟨v, he, hv, hr⟩ := shaExtend_spec 48 ((List.range 16).map fun t => beWord b (4 * t)) (by simp)
    (fun i h16 hlt => absurd hlt (by simp; omega))
  exact ⟨v, he, hv, by rwa [shaSchedule, he]⟩

theorem shaSchedule_length (b : List Byte) : (shaSchedule b).length = 64 := by
  obtain ⟨v, hs, hv, -⟩ := shaSchedule_spec b
  simp [hs, hv]

theorem shaSchedule_getD_lt (b : List Byte) {t : Nat} (h : t < 16) : (shaSchedule b).getD t 0 = beWord b (4 * t) := by
  obtain ⟨v, hs, -, -⟩ := shaSchedule_spec b
  rw [hs, List.getD_append _ _ _ _ (by simpa using h)]
  simp [h]

theorem shaSchedule_getD_ge (b : List Byte) {t : Nat} (h16 : 16 ≤ t) (h : t < 64) :
    (shaSchedule b).getD t 0 = scheduleWord (shaSchedule b) t := by
  obtain ⟨v, -, -, hr⟩ := shaSchedule_spec b
  exact hr t h16 (by rwa [shaSchedule_length])

/-! ### SHA-256 (R601 to R606) -/

theorem map_shaK : (List.range 64).map shaK = tableK := by decide

theorem shaSigmas_eq (x : Word) : shaSum0 x = x.rotateRight 2 ^^^ x.rotateRight 13 ^^^ x.rotateRight 22 ∧
    shaSum1 x = x.rotateRight 6 ^^^ x.rotateRight 11 ^^^ x.rotateRight 25 ∧
    shaSig0 x = x.rotateRight 7 ^^^ x.rotateRight 18 ^^^ (x >>> 3) ∧
    shaSig1 x = x.rotateRight 17 ^^^ x.rotateRight 19 ^^^ (x >>> 10) := by
  simp (disch := decide) only [shaSum0, shaSum1, shaSig0, shaSig1, rotr32_eq_rotateRight, and_self]

/-- The rounds on the words `ws` that follow the words `v` of a schedule take the schedule's words by their index. -/
theorem shaRounds_eq_foldl (ws : List Word) : ∀ (v : List Word) (o : Oct),
    shaRounds v.length ws o =
      (List.range' v.length ws.length).foldl (fun o t => shaRound (shaK t) ((v ++ ws).getD t 0) o) o := by
  induction ws with
  | nil => intro v o; rfl
  | cons w ws ih =>
    intro v o
    have hw : (v ++ w :: ws).getD v.length 0 = w := by simp
    have hrest := ih (v ++ [w]) (shaRound (shaK v.length) w o)
    rw [List.append_assoc, List.length_append] at hrest
    rw [List.length_cons, List.range'_succ, List.foldl_cons, hw]
    exact hrest

theorem shaRounds_schedule (b : List Byte) (h : Oct) :
    shaRounds 0 (shaSchedule b) h =
      (List.range 64).foldl (fun o t => shaRound (shaK t) ((shaSchedule b).getD t 0) o) h := by
  rw [List.range_eq_range', ← shaSchedule_length b]
  exact shaRounds_eq_foldl (shaSchedule b) [] h

/-- Settles O55: each loop of the model is a fold over the step indices, and a step's rotations and message words are those
of the rules. -/
theorem compressionFunctions : Obligations.CompressionFunctions := by
  refine ⟨map_md5T, map_shaK, md5Shift_rows, fun i hi => md5Index_rounds hi, fun x y z => ⟨rfl, rfl⟩, shaSigmas_eq,
    fun h b => ?_, fun h b => ⟨shaSchedule_length b, fun t ht => shaSchedule_getD_lt b ht,
      fun t h16 ht => shaSchedule_getD_ge b h16 ht, ?_⟩, fun h b => ⟨rfl, rfl⟩⟩
  · intro word one q
    have hstep : ∀ p : Quad, ∀ i ∈ List.range 64, md5Step (md5Words b) i p = one p i := fun p i hi => by
      rw [md5Step_eq b (List.mem_range.1 hi), leWord, wordOf_eq_sum]; rfl
    have hq : md5Steps (md5Words b) 64 0 h = q := by
      rw [md5Steps_eq_foldl, ← List.range_eq_range']; exact List.foldl_ext _ _ _ hstep
    rw [md5Compress, hq]
  · rw [shaCompress, shaRounds_schedule]; rfl

end Sys2Proof.Machine
end

section
/-! HashHmac: the hash commands and HMAC, and that HMAC and the key derivations keep to themselves (48_hash_hmac.md R630 to
R660). -/

namespace Sys2Proof.Machine

/-! ### Format H -/

/-- An opcode row of format H stands for its command where bits 31:8 are the ALG field of one of the two algorithms. -/
theorem formH_of_row {make : Alg → Instr} {op : Byte} (hrow : (op, Shape.h make) ∈ opcodes) : FormH make op := by
  rintro c rfl
  have hdecode : ∀ i, decode c = .ok i ↔ (Shape.h make).Spells (c.extractLsb' 8 24) i := fun i =>
    (decode_ok_iff_of_row hrow).trans (mbz_build_iff_spells _ c i)
  refine ⟨fun h => (hdecode _).2 ⟨.md5, h, rfl⟩, fun h => (hdecode _).2 ⟨.sha256, h, rfl⟩,
    fun h0 h1 => illegalWord_of_decode_ne_ok fun i hi => ?_⟩
  obtain ⟨a, ha, -⟩ := (hdecode i).1 hi
  cases a with
  | md5 => exact h0 ha
  | sha256 => exact h1 ha

/-! ### Blocks of a message (R631) -/

theorem compressBlocks_eq_foldl (alg : Alg) (n : Nat) : ∀ (h : Oct) (m : List Byte),
    compressBlocks alg n h m = ((List.range n).map fun k => (m.drop (64 * k)).take 64).foldl (compress alg) h := by
  induction n with
  | zero => intro h m; rfl
  | succ n ih =>
    intro h m
    rw [compressBlocks, ih, List.range_succ_eq_map, List.map_cons, List.foldl_cons, List.map_map]
    simp only [List.drop_drop, Function.comp_def, Nat.mul_succ, Nat.add_comm, Nat.mul_zero, List.drop_zero]

theorem compressAll_eq_foldBlocks (alg : Alg) (h : Oct) (m : List Byte) : compressAll alg h m = foldBlocks alg h m :=
  compressBlocks_eq_foldl alg _ h m

theorem compressBlocks_add (alg : Alg) (k n : Nat) : ∀ (h : Oct) (m : List Byte),
    compressBlocks alg (n + k) h m = compressBlocks alg k (compressBlocks alg n h m) (m.drop (64 * n)) := by
  induction n with
  | zero => intro h m; rw [Nat.zero_add]; rfl
  | succ n ih =>
    intro h m
    rw [Nat.add_right_comm, compressBlocks, compressBlocks, ih, List.drop_drop, Nat.mul_succ, Nat.add_comm 64]

/-- Whole blocks of a string do not depend on what follows them. -/
theorem compressBlocks_append (alg : Alg) (v : List Byte) (n : Nat) : ∀ (h : Oct) (m : List Byte), 64 * n ≤ m.length →
    compressBlocks alg n h (m ++ v) = compressBlocks alg n h m := by
  induction n with
  | zero => intro h m _; rfl
  | succ n ih =>
    intro h m hm
    rw [compressBlocks, compressBlocks, List.take_append_of_le_length (by omega), List.drop_append_of_le_length (by omega),
      ih _ _ (by rw [List.length_drop]; omega)]

/-- A string goes through its whole blocks first, then its rest with what follows. -/
theorem compressAll_append (alg : Alg) (h : Oct) (m v : List Byte) :
    compressAll alg h (m ++ v) = compressAll alg (compressAll alg h m) (m.drop (64 * (m.length / 64)) ++ v) := by
  have hblocks : (m ++ v).length / 64 = m.length / 64 + (m.drop (64 * (m.length / 64)) ++ v).length / 64 := by
    simp only [List.length_append, List.length_drop]; omega
  rw [compressAll, hblocks, compressBlocks_add, compressBlocks_append alg v _ h m (by omega),
    List.drop_append_of_le_length (by omega)]
  rfl

/-! ### The padded message (R634, R635) -/

/-- Byte `k` of a length field, the least significant first, is a digit of the length to base 256. -/
theorem extractLsb'_ofNat_byte (n : Nat) {k : Nat} (hk : k < 8) :
    (BitVec.ofNat 64 n).extractLsb' (8 * k) 8 = BitVec.ofNat 8 (n / 256 ^ k) := by
  apply BitVec.eq_of_toNat_eq
  have hpow : (2 : Nat) ^ 64 = 2 ^ (8 * k) * (2 ^ 8 * 2 ^ (56 - 8 * k)) := by
    rw [← pow_add, ← pow_add]; congr 1; omega
  rw [BitVec.extractLsb'_toNat, BitVec.toNat_ofNat, BitVec.toNat_ofNat, Nat.shiftRight_eq_div_pow, hpow,
    Nat.mod_mul_right_div_self, Nat.mod_mul_right_mod, pow_mul]
  rfl


theorem byteOf_extractLsb' (w : BitVec 64) (i : Nat) {k : Nat} (hk : k < 4) :
    byteOf (w.extractLsb' i 32) k = w.extractLsb' (i + (24 - 8 * k)) 8 := by
  apply BitVec.eq_of_getLsbD_eq
  intro j hj
  simp [byteOf, hj, show 24 - 8 * k + j < 32 by omega, Nat.add_assoc]

theorem le64_eq_map (w : BitVec 64) : le64 w = (List.range 8).map fun k => w.extractLsb' (8 * k) 8 := by
  simp (disch := decide) only [le64, le32, byteOf_extractLsb']
  rfl

theorem lenField_eq_lengthBytes (alg : Alg) (total : Nat) : lenField alg total = lengthBytes alg total := by
  have hle : le64 (BitVec.ofNat 64 (8 * total)) = (List.range 8).map fun k => BitVec.ofNat 8 (8 * total / 256 ^ k) := by
    rw [le64_eq_map]
    exact List.map_congr_left fun k hk => extractLsb'_ofNat_byte _ (List.mem_range.1 hk)
  cases alg with
  | md5 => exact hle
  | sha256 => exact congrArg List.reverse hle

theorem hashPad_eq_paddedMessage (alg : Alg) (tail : List Byte) (total : Nat) :
    hashPad alg tail total = paddedMessage alg tail total := by
  have hzeros : zeroPad (tail ++ [0x80#8]).length = (119 - tail.length % 64) % 64 := by
    rw [zeroPad, List.length_append, List.length_singleton]; omega
  rw [hashPad, hzeros, lenField_eq_lengthBytes]
  rfl

/-- The zeros of the padding depend on a length mod 64 alone, so the rest of a message is padded as the whole of it is. -/
theorem absorbFinal_eq_foldBlocks (alg : Alg) (h : Oct) (m : List Byte) (total : Nat) :
    absorbFinal alg h m total = foldBlocks alg h (paddedMessage alg m total) := by
  have hrest : m.length - m.length % 64 = 64 * (m.length / 64) := by omega
  have hmod : (m.drop (64 * (m.length / 64))).length % 64 = m.length % 64 := by rw [List.length_drop]; omega
  rw [absorbFinal, hashPad_eq_paddedMessage, hrest, ← compressAll_eq_foldBlocks]
  simp only [paddedMessage, hmod, List.append_assoc]
  exact (compressAll_append ..).symm

theorem digest_eq_digestBytes (alg : Alg) (h : Oct) : digest alg h = digestBytes alg h := by cases alg <;> rfl

theorem hashIv_eq_initialValue (alg : Alg) : hashIv alg = initialValue alg := by cases alg <;> rfl

theorem hashOf_eq_messageHash (alg : Alg) (m : List Byte) : hashOf alg m = messageHash alg m := by
  rw [hashOf, absorbFinal_eq_foldBlocks, digest_eq_digestBytes, hashIv_eq_initialValue]; rfl

/-! ### HASH_INIT and HASH_UPDATE (R632, R633) -/

/-- Settles O56: HASH_UPDATE's checks come in the order of its rule, and its loop over the blocks is the fold of R631. -/
theorem hashStreamCommands : Obligations.HashStreamCommands := by
  refine ⟨formH_of_row (lookup_opcodes_iff.1 rfl), formH_of_row (lookup_opcodes_iff.1 rfl), fun alg s => ?_,
    fun alg s => ⟨fun hbad => withRegion_bad hbad _, fun hs hl => ?_, fun m hs hl hm => ?_⟩⟩
  · rw [← hashIv_eq_initialValue]; rfl
  · exact (withRegion_ok hs _).trans (if_pos hl)
  · rw [← compressAll_eq_foldBlocks]
    exact (withRegion_ok hs _).trans ((if_neg (not_not.2 hl)).trans (withBytes_ok hm _))

/-! ### HASH_FINAL and HASH (R636, R637) -/

theorem withHashOperands_ok {alg : Alg} {s : State} {m : List Byte} (hs : s.regionOk s.src s.srcL = true)
    (hd : s.regionOk s.dst (digestLen alg) = true) (hm : s.memRead s.src s.srcL = .ok m) (k : List Byte → Result) :
    withHashOperands alg s k = k m := by
  rw [withHashOperands, withRegion_ok hs, withRegion_ok hd, withBytes_ok hm]

theorem withHashOperands_bad {alg : Alg} {s : State}
    (h : s.regionOk s.src s.srcL = false ∨ s.regionOk s.dst (digestLen alg) = false) (k : List Byte → Result) :
    withHashOperands alg s k = .next (s.raise .addressError) :=
  withHashOperands_next.2 (.inr ⟨h, rfl⟩)

/-- HASH_FINAL's effect on a message of `m` at its end and `total` bytes in all, modulo 2^64. -/
theorem hashFinished_outcome {s : State} {m : List Byte} {n : BitVec 64} {total : Nat} (alg : Alg)
    (hn : s.hlenPlus m.length = n) (ht : n.toNat = total) :
    let h := foldBlocks alg s.hstate (paddedMessage alg m total)
    let t := (s.hashFinished alg m).finish
    StoresOnly s t s.dst (digestBytes alg h) ∧
      t = ({ s with dmem := t.dmem, hstate := h, hlen := n, resLen := BitVec.ofNat 32 (digestLen alg) } : State).finish := by
  rw [State.hashFinished, hn, ht, absorbFinal_eq_foldBlocks, digest_eq_digestBytes]
  exact ⟨storesOnly_memWrite (s.withHash _ n) s.dst _, rfl⟩

/-- Settles O57: HASH_FINAL's effect follows the padded rest, and HASH's is the same from the initial value and HLEN = 0. -/
theorem hashFinalAndHashCommands : Obligations.HashFinalAndHashCommands := by
  refine ⟨formH_of_row (lookup_opcodes_iff.1 rfl), formH_of_row (lookup_opcodes_iff.1 rfl), fun alg s =>
    ⟨fun hbad => ⟨withHashOperands_bad hbad _, withHashOperands_bad hbad _⟩, fun m hs hd hm => ?_⟩⟩
  have hlen : m.length = s.srcL := State.memRead_length hm
  have hwhole : (s.withHash (hashIv alg) 0).hlenPlus m.length = BitVec.ofNat 64 s.srcL := by
    rw [hlen]; exact BitVec.zero_add _
  have htotal : (BitVec.ofNat 64 s.srcL).toNat = s.srcL := by
    rw [BitVec.toNat_ofNat]
    exact Nat.mod_eq_of_lt (s.srcLen.isLt.trans (by decide))
  rw [← hashIv_eq_initialValue]
  have hfinal := hashFinished_outcome (s := s) (n := s.hlen + BitVec.ofNat 64 s.srcL) alg (by rw [hlen]; rfl) rfl
  have hhash := hashFinished_outcome alg hwhole htotal
  exact ⟨⟨_, withHashOperands_ok hs hd hm _, hfinal⟩, ⟨_, withHashOperands_ok hs hd hm _, hhash⟩⟩

/-! ### HMAC (R650 to R652) -/

theorem hmacPad_zeroPadded {k : List Byte} (h : k.length ≤ 64) (v : Byte) :
    hmacPad (k ++ List.replicate (64 - k.length) 0) v = (List.range 64).map fun i => k.getD i 0 ^^^ v := by
  apply List.ext_getElem
  · simp [hmacPad, h]
  · intro i _ _
    by_cases hi : i < k.length <;> simp [hmacPad, List.getElem_append, hi]

/-- The key of R650 fits its 64 bytes: a digest does, and a longer key is hashed. -/
theorem hmacPad_hmacKey (alg : Alg) (k : List Byte) (v : Byte) :
    hmacPad (hmacKey alg k) v =
      (List.range 64).map fun i => (if 64 < k.length then messageHash alg k else k).getD i 0 ^^^ v := by
  rw [← hashOf_eq_messageHash]
  refine hmacPad_zeroPadded ?_ v
  split
  · rw [hashOf_length]; cases alg <;> decide
  · omega

theorem hmacOf_eq_messageMac (alg : Alg) (k m : List Byte) : hmacOf alg k m = messageMac alg k m := by
  simp only [hmacOf, messageMac, hashOf_eq_messageHash, hmacPad_hmacKey]
  rfl

/-- A failing region raises AddressError, and so does a good one before other checks that raise it. -/
theorem withRegion_raises {s : State} {a n : Nat} {k : Result}
    (h : s.regionOk a n = false ∨ k = .next (s.raise .addressError)) : withRegion s a n k = .next (s.raise .addressError) := by
  obtain hbad | rfl := h
  · exact withRegion_bad hbad k
  · exact ite_self _

theorem execHmac_ok {alg : Alg} {s : State} {m k : List Byte} (hs : s.regionOk s.src s.srcL = true)
    (ha : s.regionOk s.aux s.auxL = true) (hd : s.regionOk s.dst (digestLen alg) = true)
    (hm : s.memRead s.src s.srcL = .ok m) (hk : s.memRead s.aux s.auxL = .ok k) :
    execHmac alg s = .next (s.deliver (hmacOf alg k m) (digestLen alg)).finish := by
  rw [execHmac, withRegion_ok hs, withRegion_ok ha, withRegion_ok hd, withBytes_ok hk, withBytes_ok hm]

/-- Settles O59: past its checks HMAC is one write, of the MAC. -/
theorem hmacCommand : Obligations.HmacCommand := by
  refine ⟨formH_of_row (lookup_opcodes_iff.1 rfl), fun alg s => ⟨fun hbad => ?_, fun m k hs ha hd hm hk => ?_⟩⟩
  · exact withRegion_raises (hbad.imp_right fun hbad => withRegion_raises (hbad.imp_right fun hbad => withRegion_bad hbad _))
  · rw [← hmacOf_eq_messageMac]
    exact ⟨_, execHmac_ok hs ha hd hm hk, storesOnly_memWrite s s.dst _, rfl⟩

/-! ### What HMAC and the key derivations do not touch (R660) -/

/-- Values for the registers of R660. -/
structure OtherRegisters where
  hstate : Oct
  hlen : BitVec 64
  chain : Quad
  block : Quad
  rk : Vector Word 60
  irk : Vector Word 60
  key : Oct
  keyLen : Word

/-- A state with its other registers replaced. -/
def OtherRegisters.on (q : OtherRegisters) (s : State) : State :=
  s.withOther q.hstate q.hlen q.chain q.block q.rk q.irk q.key q.keyLen

/-- `r'` is `r` with the other registers replaced in its next state: what made them read none of these registers. -/
def ReadsNoOther (q : OtherRegisters) (r r' : Result) : Prop := r' = andThen r fun t => .next (q.on t)

section

variable {q : OtherRegisters} {s : State} {a n : Nat}

theorem withRegion_readsNoOther {k k' : Result} (hk : ReadsNoOther q k k') :
    ReadsNoOther q (withRegion s a n k) (withRegion (q.on s) a n k') := by
  have hregion : (q.on s).regionOk a n = s.regionOk a n := rfl
  rw [withRegion, withRegion, hregion]
  split
  · exact hk
  · rfl

theorem withBytes_readsNoOther {k k' : List Byte → Result} (hk : ∀ vs, ReadsNoOther q (k vs) (k' vs)) :
    ReadsNoOther q (withBytes s a n k) (withBytes (q.on s) a n k') := by
  have hread : (q.on s).memRead a n = s.memRead a n := memRead_congr (s := s) (t := q.on s) (fun _ => rfl) n a
  rw [withBytes, withBytes, hread]
  cases s.memRead a n with
  | ok vs => exact hk vs
  | error f => rfl

theorem withBytesIf_readsNoOther (needed : Bool) {k k' : List Byte → Result} (hk : ∀ vs, ReadsNoOther q (k vs) (k' vs)) :
    ReadsNoOther q (withBytesIf needed s a n k) (withBytesIf needed (q.on s) a n k') := by
  cases needed with
  | false => exact hk []
  | true => exact withBytes_readsNoOther hk

theorem withKdfOperands_readsNoOther {k k' : List Byte → List Byte → Result}
    (hk : ∀ p salt, ReadsNoOther q (k p salt) (k' p salt)) :
    ReadsNoOther q (withKdfOperands s k) (withKdfOperands (q.on s) k') :=
  withRegion_readsNoOther (withRegion_readsNoOther (withRegion_readsNoOther
    (withBytesIf_readsNoOther _ fun p => withBytesIf_readsNoOther _ (hk p))))

theorem execHmac_readsNoOther (alg : Alg) : ReadsNoOther q (execHmac alg s) (execHmac alg (q.on s)) :=
  withRegion_readsNoOther (withRegion_readsNoOther (withRegion_readsNoOther
    (withBytes_readsNoOther fun _ => withBytes_readsNoOther fun _ => rfl)))

end

/-- What a command that ends in its frame leaves of the registers of R660, where none is its rule's, and of the scratch. -/
theorem Ended.others {i : Instr} {s t : State} (h : Ended i s t) (hc : mayWriteChain i = false) (hb : mayWriteBlock i = false)
    (hh : mayWriteHash i = false) (hk : usesKey i = false) (he : i ≠ .keyexp) (hr : i ≠ .keyclr) :
    t.scratch = Scratch.zero ∧ t.hstate = s.hstate ∧ t.hlen = s.hlen ∧ t.chain = s.chain ∧ t.block = s.block ∧
      t.rk = s.rk ∧ t.irk = s.irk ∧ t.key = s.key ∧ t.keyLen = s.keyLen := by
  obtain ⟨u, e, hf, rfl⟩ : ∃ u e, CommandFrame i s u ∧ t = u.record e := by
    cases h with
    | success hf => exact ⟨_, _, hf, rfl⟩
    | error e hf _ => exact ⟨_, _, hf, rfl⟩
  obtain ⟨hstate, hlen⟩ := hf.hash hh
  obtain ⟨hrk, hirk, -⟩ := hf.cache hk he hr
  obtain ⟨hkeyLen, hkey⟩ := hf.keyRegs hr
  exact ⟨rfl, hstate, hlen, hf.chain hc, hf.block hb, hrk, hirk, hkey, hkeyLen⟩

/-- Settles O29: each check, read and delivery of the three commands goes through with the other registers replaced. -/
theorem hmacAndKdfKeepToThemselves : Obligations.HmacAndKdfKeepToThemselves := by
  intro alg i s hi
  refine ⟨fun h n c b rk irk k kl => ?_, fun t ht => ?_⟩
  · have hq : ReadsNoOther ⟨h, n, c, b, rk, irk, k, kl⟩ (exec i s) (exec i (s.withOther h n c b rk irk k kl)) := by
      obtain rfl | rfl | rfl := hi
      · exact execHmac_readsNoOther alg
      · exact withKdfOperands_readsNoOther fun _ _ => rfl
      · exact withKdfOperands_readsNoOther fun _ _ => rfl
    exact hq
  · have hend := exec_ends i s t ht
    obtain rfl | rfl | rfl := hi <;> exact hend.others rfl rfl rfl rfl nofun nofun

end Sys2Proof.Machine
end

section
/-! AesInverse: decryption inverts encryption, and the step commands compute both (43_aes_block.md section 2, R484). -/

namespace Sys2Proof.Machine

/-! ### The inverse transforms -/

theorem invShiftRows_shiftRows (x : Quad) : invShiftRows (shiftRows x) = x := by
  refine Quad.ext_get fun c hc => word_ext_byteOf fun r hr => ?_
  obtain ⟨d, hd, rfl⟩ : ∃ d, d < 4 ∧ c = (d + r) % 4 := ⟨(c + 4 - r) % 4, by omega, by omega⟩
  rw [byteOf_invShiftRows _ hd hr, byteOf_shiftRows _ hd hr]

theorem invSubBytes_subBytes (x : Quad) : invSubBytes (subBytes x) = x :=
  Quad.ext_get fun c _ => word_ext_byteOf fun r hr =>
    calc byteOf ((invSubBytes (subBytes x)).get c) r = invSbox (byteOf ((subBytes x).get c) r) :=
          byteOf_map_mapBytes invSbox (subBytes x) c hr
      _ = invSbox (sbox (byteOf (x.get c) r)) := congrArg invSbox (byteOf_map_mapBytes sbox x c hr)
      _ = byteOf (x.get c) r := invSbox_sbox _

theorem invMixColumns_mixColumns (x : Quad) : invMixColumns (mixColumns x) = x :=
  Quad.ext_get fun c _ => by rw [invMixColumns, mixColumns, Quad.get_map, Quad.get_map, invMixWord_mixWord]

theorem gfColumn_xor (c0 c1 c2 c3 : Byte) (v w : Word) :
    gfColumn c0 c1 c2 c3 (v ^^^ w) = gfColumn c0 c1 c2 c3 v ^^^ gfColumn c0 c1 c2 c3 w := by
  simp only [gfColumn, wordOf_xor, byteOf_xor, gfRow, gmul_xor]
  congr 1 <;> ac_rfl

/-- InvMixColumns is linear, so it can come before AddRoundKey where the round key goes through it too (R422, R481). -/
theorem invMixColumns_xor (x y : Quad) : invMixColumns (x.xor y) = (invMixColumns x).xor (invMixColumns y) :=
  Quad.ext_get fun c _ => by simp only [invMixColumns, Quad.get_map, Quad.get_xor, invMixWord, gfColumn_xor]

/-! ### The rounds undone -/

/-- The round keys of the inverse RAM are those of the forward one in reverse order, the inner ones through InvMixColumns
(R422). -/
def InverseRoundKeys (rk irk : Vector Word 60) (nr : Nat) : Prop :=
  ∀ r, r ≤ nr → ramRound irk r =
    if r = 0 ∨ r = nr then ramRound rk (nr - r) else invMixColumns (ramRound rk (nr - r))

/-- The last of `n + 1` encryption rounds. -/
theorem encRounds_succ_last (rk : Vector Word 60) (n : Nat) : ∀ (r : Nat) (x : Quad),
    encRounds rk (n + 1) r x = addRoundKey (mixColumns (shiftRows (subBytes (encRounds rk n r x)))) rk (r + n) := by
  induction n with
  | zero => exact fun _ _ => rfl
  | succ n ih =>
    intro r x
    rw [encRounds, ih, Nat.add_right_comm r 1 n]
    rfl

section

variable {rk irk : Vector Word 60} {nr : Nat} (hkeys : InverseRoundKeys rk irk nr)

include hkeys

/-- An inner decryption round takes an encryption round off a state that has SubBytes and ShiftRows on top. -/
theorem decRound_encRound {r : Nat} (h0 : 0 < r) (hr : r < nr) (z : Quad) :
    addRoundKey (invMixColumns (invSubBytes (invShiftRows
      (shiftRows (subBytes (addRoundKey (mixColumns z) rk (nr - r))))))) irk r = z := by
  have hkey : ramRound irk r = invMixColumns (ramRound rk (nr - r)) := by
    rw [hkeys r (by omega), if_neg (by omega)]
  rw [invShiftRows_shiftRows, invSubBytes_subBytes, addRoundKey, addRoundKey, invMixColumns_xor, hkey,
    invMixColumns_mixColumns, Quad.xor_xor_cancel]

/-- The last `n` inner decryption rounds undo the first `n` encryption rounds. -/
theorem decRounds_encRounds (n : Nat) (hn : n < nr) (x : Quad) :
    decRounds irk n (nr - n) (shiftRows (subBytes (encRounds rk n 1 x))) = shiftRows (subBytes x) := by
  induction n with
  | zero => rfl
  | succ n ih =>
    have hkey : nr - (nr - (n + 1)) = 1 + n := by omega
    have hround := decRound_encRound hkeys (r := nr - (n + 1)) (by omega) (by omega)
      (shiftRows (subBytes (encRounds rk n 1 x)))
    rw [hkey] at hround
    rw [decRounds, encRounds_succ_last, hround, show nr - (n + 1) + 1 = nr - n by omega, ih (by omega)]

theorem aesDecrypt_aesEncrypt (h0 : 0 < nr) (x : Quad) : aesDecrypt irk nr (aesEncrypt rk nr x) = x := by
  have hfirst (y : Quad) : addRoundKey y irk 0 = addRoundKey y rk nr := by
    rw [addRoundKey, hkeys 0 (by omega), if_pos (.inl rfl), Nat.sub_zero, addRoundKey]
  have hlast (y : Quad) : addRoundKey y irk nr = addRoundKey y rk 0 := by
    rw [addRoundKey, hkeys nr le_rfl, if_pos (.inr rfl), Nat.sub_self, addRoundKey]
  have hinner := decRounds_encRounds hkeys (nr - 1) (by omega) (addRoundKey x rk 0)
  rw [Nat.sub_sub_self h0] at hinner
  rw [aesDecrypt, aesEncrypt, hfirst, addRoundKey_twice, hlast, hinner, invShiftRows_shiftRows, invSubBytes_subBytes,
    addRoundKey_twice]

end

/-- There are finitely many blocks, so a left inverse of a cipher on them is a right inverse. -/
theorem leftInverse_comm_on_blocks {d e : Quad → Quad} (h : ∀ x, d (e x) = x) (x : Quad) : e (d x) = x := by
  have hwords : Function.Injective fun q : Quad => (q.w0, q.w1, q.w2, q.w3) := by
    rintro ⟨⟩ ⟨⟩ he
    simpa using he
  have : Finite Quad := Finite.of_injective _ hwords
  have hleft : Function.LeftInverse d e := h
  exact hleft.rightInverse_of_surjective (Finite.injective_iff_surjective.1 hleft.injective) x

theorem aesEncrypt_aesDecrypt {rk irk : Vector Word 60} {nr : Nat} (hkeys : InverseRoundKeys rk irk nr) (h0 : 0 < nr)
    (x : Quad) : aesEncrypt rk nr (aesDecrypt irk nr x) = x :=
  leftInverse_comm_on_blocks (aesDecrypt_aesEncrypt hkeys h0) x

/-- The generated RAMs of a legal key are inverse to each other (R422, R424). -/
theorem inverseRoundKeys_generated {n : Word} (hn : n = 16 ∨ n = 24 ∨ n = 32) (key : Oct) :
    InverseRoundKeys (ramOf (forwardOf n key)) (ramOf (inverseOf n key)) (nkOf n + 6) := by
  have hnk := nkOf_cases hn
  exact fun r hr => ramRound_invKeyExpand (by omega) (forwardOf_length hn key) hr

/-- A sound key cache made ready holds inverse schedules, and its round count is not 0. -/
theorem State.KeyCacheOk.inverseRoundKeys {s u : State} (h : s.KeyCacheOk) (hk : s.keyReady = some u) :
    InverseRoundKeys u.rk u.irk u.nr.toNat ∧ 0 < u.nr.toNat := by
  obtain ⟨hlen, -, -, hnr⟩ := h.ready hk
  have hnk := nkOf_cases (keyLenOk_iff.1 hlen)
  refine ⟨fun r hr => ramRound_irk h hk hr, ?_⟩
  rw [hnr, BitVec.toNat_ofNat]
  omega

/-! ### The commands one after another -/

/-- A record of success over one is one. -/
theorem finish_withBlock_finish (u : State) (x y : Quad) :
    ((u.withBlock x).finish.withBlock y).finish = (u.withBlock y).finish := by
  simp only [State.finish, State.record, State.withBlock, BitVec.or_assoc, BitVec.or_self]

theorem keyReady_withBlock_self {s u : State} (hk : s.keyReady = some u) : u.withBlock s.block = u := by
  rw [← keyReady_block hk]; rfl

theorem runAll_cons {i : Instr} {s t : State} (h : exec i s = .next t) (is : List Instr) :
    runAll (i :: is) s = runAll is t := by rw [runAll, h]; rfl

theorem runAll_append (is js : List Instr) : ∀ s : State, runAll (is ++ js) s = andThen (runAll is s) (runAll js) := by
  induction is with
  | nil => exact fun _ => rfl
  | cons i is ih =>
    intro s
    rw [List.cons_append, runAll, runAll]
    cases exec i s with
    | next t => exact ih t
    | fault _ => rfl
    | refused _ => rfl

/-- Settles O44: the rounds are undone one by one under inverse round keys, and blocks are finitely many. -/
theorem decryptInvertsEncrypt : Obligations.DecryptInvertsEncrypt := by
  refine ⟨fun n key x hn => ?_, fun s u hc hk => ?_⟩
  · have hkeys := inverseRoundKeys_generated hn key
    exact ⟨aesDecrypt_aesEncrypt hkeys (Nat.succ_pos _) x, aesEncrypt_aesDecrypt hkeys (Nat.succ_pos _) x⟩
  · obtain ⟨hkeys, h0⟩ := hc.inverseRoundKeys hk
    rw [runAll_cons (exec_aesEnc hk), runAll_cons (exec_aesDec (keyReady_finish_withBlock hk _)),
      runAll_cons (exec_aesDec hk), runAll_cons (exec_aesEnc (keyReady_finish_withBlock hk _)),
      finish_withBlock_finish, finish_withBlock_finish]
    have hdec := aesDecrypt_aesEncrypt hkeys h0 s.block
    have henc := aesEncrypt_aesDecrypt hkeys h0 s.block
    have hu : (u.withBlock s.block).finish = u.finish := by rw [keyReady_withBlock_self hk]
    exact ⟨congrArg Host.Outcome.next ((congrArg (fun q => (u.withBlock q).finish) hdec).trans hu),
      congrArg Host.Outcome.next ((congrArg (fun q => (u.withBlock q).finish) henc).trans hu)⟩

/-! ### The step commands (R484) -/

/-- From a state with the key ready and BLOCK = x, the commands end with BLOCK = y and nothing else changed. -/
def BlockRun (u : State) (is : List Instr) (x y : Quad) : Prop :=
  runAll is (u.withBlock x).finish = .next (u.withBlock y).finish

theorem BlockRun.trans {u : State} {is js : List Instr} {x y z : Quad} (h : BlockRun u is x y) (g : BlockRun u js y z) :
    BlockRun u (is ++ js) x z := by
  rw [BlockRun, runAll_append, show runAll is _ = _ from h]
  exact g

/-- A step command that answers BLOCK in the record of success does so after another step command. -/
theorem BlockRun.single {u : State} {i : Instr} {x y : Quad}
    (h : exec i (u.withBlock x).finish = .next ((u.withBlock x).finish.withBlock y).finish) : BlockRun u [i] x y := by
  rw [BlockRun, runAll_cons h, finish_withBlock_finish]
  rfl

section

variable {s u : State} (hk : s.keyReady = some u)

include hk

theorem blockRun_addrk {r : Nat} (hr : r ≤ u.nr.toNat) (x : Quad) : BlockRun u [.addrk r] x (addRoundKey x u.rk r) :=
  .single (exec_addrk (keyReady_finish_withBlock hk x) hr)

theorem blockRun_addirk {r : Nat} (hr : r ≤ u.nr.toNat) (x : Quad) : BlockRun u [.addirk r] x (addRoundKey x u.irk r) :=
  .single (exec_addirk (keyReady_finish_withBlock hk x) hr)

theorem blockRun_encRounds (n : Nat) : ∀ (r : Nat) (x : Quad), r + n ≤ u.nr.toNat + 1 →
    BlockRun u ((List.range' r n).flatMap fun r => [.subbytes, .shiftrows, .mixcolumns, .addrk r]) x
      (encRounds u.rk n r x) := by
  induction n with
  | zero => exact fun _ _ _ => rfl
  | succ n ih =>
    intro r x hr
    have hround : BlockRun u ([.subbytes] ++ ([.shiftrows] ++ ([.mixcolumns] ++ [.addrk r]))) x
        (addRoundKey (mixColumns (shiftRows (subBytes x))) u.rk r) :=
      .trans (.single rfl) (.trans (.single rfl) (.trans (.single rfl) (blockRun_addrk hk (by omega) _)))
    exact hround.trans (ih (r + 1) _ (by omega))

theorem blockRun_decRounds (n : Nat) : ∀ (r : Nat) (x : Quad), r + n ≤ u.nr.toNat + 1 →
    BlockRun u ((List.range' r n).flatMap fun r => [.invshiftrows, .invsubbytes, .invmixcolumns, .addirk r]) x
      (decRounds u.irk n r x) := by
  induction n with
  | zero => exact fun _ _ _ => rfl
  | succ n ih =>
    intro r x hr
    have hround : BlockRun u ([.invshiftrows] ++ ([.invsubbytes] ++ ([.invmixcolumns] ++ [.addirk r]))) x
        (addRoundKey (invMixColumns (invSubBytes (invShiftRows x))) u.irk r) :=
      .trans (.single rfl) (.trans (.single rfl) (.trans (.single rfl) (blockRun_addirk hk (by omega) _)))
    exact hround.trans (ih (r + 1) _ (by omega))

end

/-- The first command makes the key ready; the others run as from a completed state with it ready. -/
theorem runAll_of_blockRun {s u : State} {i : Instr} {is : List Instr} {x y : Quad}
    (hi : exec i s = .next (u.withBlock x).finish) (h : BlockRun u is x y) :
    runAll (i :: is) s = .next (u.withBlock y).finish := (runAll_cons hi is).trans h

/-- Settles O45, by induction over the rounds. -/
theorem stepCommandsComputeAes : Obligations.StepCommandsComputeAes := by
  intro s u hk
  rw [exec_aesEnc hk, exec_aesDec hk]
  refine ⟨runAll_of_blockRun (exec_addrk hk (Nat.zero_le _)) ((blockRun_encRounds hk _ 1 _ ?_).trans ?_),
    runAll_of_blockRun (exec_addirk hk (Nat.zero_le _)) ((blockRun_decRounds hk _ 1 _ ?_).trans ?_)⟩
  · omega
  · exact .trans (js := [.shiftrows, .addrk _]) (.single (i := .subbytes) rfl)
      (.trans (.single (i := .shiftrows) rfl) (blockRun_addrk hk le_rfl _))
  · omega
  · exact .trans (js := [.invsubbytes, .addirk _]) (.single (i := .invshiftrows) rfl)
      (.trans (.single (i := .invsubbytes) rfl) (blockRun_addirk hk le_rfl _))

end Sys2Proof.Machine
end

section
/-! RoundTrip: DECRYPT takes back what ENCRYPT wrote, and UNPAD what PAD wrote (45_pkcs7.md section 2, R536). -/

namespace Sys2Proof.Machine

/-! ### Byte strings and their blocks -/

theorem length_flatMap_store16 (qs : List Quad) : (qs.flatMap store16).length = 16 * qs.length := by
  simp [List.length_flatMap, Nat.mul_comm]

theorem blocksOf_length (m : List Byte) : (blocksOf m).length = m.length / 16 := by simp [blocksOf]

theorem blocksOf_flatMap_store16 (qs : List Quad) : blocksOf (qs.flatMap store16) = qs := by
  induction qs with
  | nil => rfl
  | cons q qs ih =>
    have htake : (store16 q ++ qs.flatMap store16).take 16 = store16 q := List.take_left' rfl
    have hdrop : (store16 q ++ qs.flatMap store16).drop 16 = qs.flatMap store16 := List.drop_left' rfl
    rw [List.flatMap_cons, blocksOf_eq_cons (by simp), htake, hdrop, load16_store16, ih]

theorem flatMap_store16_blocksOf (n : Nat) : ∀ m : List Byte, m.length = 16 * n → (blocksOf m).flatMap store16 = m := by
  induction n with
  | zero => intro m hm; rw [List.length_eq_zero_iff.1 hm]; rfl
  | succ n ih =>
    intro m hm
    have hfirst : (m.take 16).length = 16 := by rw [List.length_take]; omega
    rw [blocksOf_eq_cons (by omega), List.flatMap_cons, store16_load16 hfirst, ih _ (by rw [List.length_drop]; omega),
      List.take_append_drop]

/-! ### The chain undone (R500, R501) -/

theorem cbcEncBlocks_length (e : Quad → Quad) (ps : List Quad) : ∀ c, (cbcEncBlocks e c ps).length = ps.length := by
  induction ps with
  | nil => exact fun _ => rfl
  | cons p ps ih => exact fun c => congrArg (· + 1) (ih _)

theorem cbcDecBlocks_cbcEncBlocks {d e : Quad → Quad} (h : ∀ x, d (e x) = x) (ps : List Quad) :
    ∀ c, cbcDecBlocks d c (cbcEncBlocks e c ps) = ps := by
  induction ps with
  | nil => exact fun _ => rfl
  | cons p ps ih => intro c; rw [cbcEncBlocks, cbcDecBlocks, h, Quad.xor_xor_cancel, ih]

theorem cbcCipher_bytes_length (u : State) {m : List Byte} (hm : m.length % 16 = 0) :
    ((cbcCipher u m).flatMap store16).length = m.length := by
  rw [length_flatMap_store16, cbcCipher, cbcEncBlocks_length, blocksOf_length]
  omega

/-- Decryption under inverse round keys from the same chaining value gives the string back. -/
theorem cbcPlain_cbcCipher {u w : State} {m : List Byte} (hm : m.length % 16 = 0)
    (hkeys : InverseRoundKeys u.rk w.irk u.nr.toNat) (h0 : 0 < u.nr.toNat) (hnr : w.nr = u.nr) (hc : w.chain = u.chain) :
    cbcPlain w ((cbcCipher u m).flatMap store16) = m := by
  rw [cbcPlain, blocksOf_flatMap_store16, cbcCipher, hnr, hc,
    cbcDecBlocks_cbcEncBlocks (aesDecrypt_aesEncrypt hkeys h0), flatMap_store16_blocksOf (m.length / 16) m (by omega)]

/-! ### Regions -/

/-- A region of a legal DMEM ends within 2^16 bytes (20_memory.md R200, R206). -/
theorem regionOk_le {s : State} {a n : Nat} (hc : s.cfg.legal = true) (h : s.regionOk a n = true) : a + n ≤ 65536 := by
  simp only [Config.legal, Bool.and_eq_true, decide_eq_true_eq] at hc
  simp only [State.regionOk, Bool.and_eq_true, decide_eq_true_eq] at h
  unfold State.dmemBytes at h
  omega

theorem regionOk_congr {s t : State} (h : t.cfg = s.cfg) (a n : Nat) : t.regionOk a n = s.regionOk a n := by
  rw [State.regionOk, State.dmemBytes, h]; rfl

theorem toNat_ofNat_le {n : Nat} (h : n ≤ 65536) : (BitVec.ofNat 32 n).toNat = n := by
  rw [BitVec.toNat_ofNat]; omega

theorem StoresOnly.memRead {s t : State} {a : Nat} {vs : List Byte} (h : StoresOnly s t a vs) :
    t.memRead a vs.length = .ok vs :=
  (t.memRead_ok _ a vs).2 ⟨rfl, fun k hk => by rw [h, if_pos (by omega), Nat.add_sub_cancel_left]⟩

/-- A stored string shows each of its bytes, and so the first of two strings stored together. -/
theorem StoresOnly.dmemByte_left {s t : State} {a k : Nat} {m vs : List Byte} (h : StoresOnly s t a (m ++ vs))
    (hk : k < m.length) : t.dmemByte (a + k) = m[k]? := by
  rw [h, List.length_append, if_pos (by omega), Nat.add_sub_cancel_left, List.getElem?_append_left hk]

/-! ### The padding -/

theorem padBytes_getLastD (m : List Byte) (len : Nat) :
    (m ++ padBytes len).getLastD 0 = BitVec.ofNat 8 (padCount len) := by
  obtain ⟨k, hk⟩ : ∃ k, padCount len = k + 1 := ⟨padCount len - 1, by have := (padCount_bounds len).1; omega⟩
  rw [padBytes, hk, List.replicate_succ', ← List.append_assoc, List.getLastD_concat]

theorem toNat_padCount (len : Nat) : (BitVec.ofNat 8 (padCount len)).toNat = padCount len := by
  have hle := (padCount_bounds len).2.1
  rw [BitVec.toNat_ofNat]
  omega

/-- DECRYPT of a ciphertext of a padded message leaves the message's length and the message (R535). -/
theorem exec_decrypt_padded {w : State} {m c : List Byte} (hv : w.keyValid = true)
    (hn : w.srcL = m.length + padCount m.length) (hs : w.regionOk w.src w.srcL = true) (hd : w.regionOk w.dst w.srcL = true)
    (ho : inPlaceOrApart w.src w.srcL w.dst w.srcL) (hc : w.memRead w.src w.srcL = .ok c)
    (hp : cbcPlain w c = m ++ padBytes m.length) :
    ∃ v, exec .decrypt w = .next v ∧ v.err = false ∧ v.resLen = BitVec.ofNat 32 m.length ∧
      ∀ k, k < m.length → v.dmemByte (w.dst + k) = m[k]? := by
  obtain ⟨h1, h16, hmod⟩ := padCount_bounds m.length
  have hlast : ((cbcPlain w c).getLastD 0).toNat = padCount m.length := by rw [hp, padBytes_getLastD, toNat_padCount]
  obtain ⟨-, hgood⟩ := decryptCommand.2 w w c hs hd (keyReady_some.2 (.inl ⟨hv, rfl⟩)) (by omega) (by omega) hc
  rw [hlast] at hgood
  obtain ⟨v, hexec, hstore, hend⟩ := hgood h1 h16 ho
  rw [hn, Nat.add_sub_cancel] at hend
  rw [hp] at hstore
  exact ⟨v, hexec, by rw [hend]; rfl, by rw [hend]; rfl, fun k hk => hstore.dmemByte_left hk⟩

/-- ENCRYPT in place or apart, with CHAIN as it leaves it. -/
theorem exec_encrypt_padded {s u : State} {m : List Byte} (hk : s.keyReady = some u) (hs : s.regionOk s.src s.srcL = true)
    (hd : s.regionOk s.dst (s.srcL + padCount s.srcL) = true)
    (ho : inPlaceOrApart s.src s.srcL s.dst (s.srcL + padCount s.srcL)) (hm : s.memRead s.src s.srcL = .ok m) :
    ∃ t, exec .encrypt s = .next t ∧ StoresOnly s t s.dst ((cbcCipher u (m ++ padBytes s.srcL)).flatMap store16) ∧
      t = ({ u with dmem := t.dmem, chain := t.chain, resLen := BitVec.ofNat 32 (s.srcL + padCount s.srcL) } : State).finish := by
  obtain ⟨t, hexec, hstore, hend⟩ := encryptCommand.2 s u m hs hd hk ho hm
  have hchain := congrArg State.chain hend
  refine ⟨t, hexec, hstore, ?_⟩
  rw [hchain]
  exact hend

/-- The state between the two commands: the output of the first is the source of the second, and CHAIN is set back. -/
def State.chained (t : State) (src dst : Word) (iv : Quad) : State :=
  { t with srcAddr := src, srcLen := t.resLen, dstAddr := dst, chain := iv }

theorem chained_memRead (t : State) (src dst : Word) (iv : Quad) (a n : Nat) :
    (t.chained src dst iv).memRead a n = t.memRead a n :=
  memRead_congr (s := t) (t := t.chained src dst iv) (fun _ => rfl) n a

/-- ENCRYPT, then DECRYPT of its output from the same chaining value (R536). -/
theorem decrypt_encrypt_restores {s u : State} {m : List Byte} {d : Word} {n : Nat} (hn : n = s.srcL + padCount s.srcL)
    (hcfg : s.cfg.legal = true) (hcache : s.KeyCacheOk) (hk : s.keyReady = some u) (hs : s.regionOk s.src s.srcL = true)
    (hd : s.regionOk s.dst n = true) (ho : inPlaceOrApart s.src s.srcL s.dst n) (hm : s.memRead s.src s.srcL = .ok m)
    (hdd : s.regionOk d.toNat n = true) (hod : inPlaceOrApart s.dst n d.toNat n) :
    ∃ t v, exec .encrypt s = .next t ∧ t.resLen.toNat = n ∧ exec .decrypt (t.chained s.dstAddr d s.chain) = .next v ∧
      v.err = false ∧ v.resLen = s.srcLen ∧ ∀ k, k < s.srcL → v.dmemByte (d.toNat + k) = m[k]? := by
  have hlen : m.length = s.srcL := State.memRead_length hm
  obtain ⟨hkeys, h0⟩ := hcache.inverseRoundKeys hk
  obtain ⟨t, hexec, hstore, hend⟩ := exec_encrypt_padded hk hs (hn ▸ hd) (hn ▸ ho) hm
  rw [← hn] at hend
  have hmod : (m ++ padBytes s.srcL).length % 16 = 0 := by
    rw [List.length_append, padBytes_length, hlen]
    exact (padCount_bounds s.srcL).2.2
  have hres : t.resLen.toNat = n := by
    have hle := regionOk_le hcfg hd
    rw [hend]
    exact toNat_ofNat_le (by omega)
  have hread := hstore.memRead
  rw [cbcCipher_bytes_length u hmod, List.length_append, padBytes_length, hlen, ← hn, ← hres] at hread
  have hcfgt : t.cfg = s.cfg := by rw [hend, keyReady_frame hk]; rfl
  have hvalid : t.keyValid = true := by rw [hend]; exact keyReady_keyValid (u := u) hk
  have hirk : t.irk = u.irk := by rw [hend]; rfl
  have hnr : t.nr = u.nr := by rw [hend]; rfl
  rw [← hirk] at hkeys
  have hplain : cbcPlain (t.chained s.dstAddr d s.chain) ((cbcCipher u (m ++ padBytes s.srcL)).flatMap store16) =
      m ++ padBytes s.srcL := cbcPlain_cbcCipher hmod hkeys h0 hnr (keyReady_chain hk).symm
  rw [← regionOk_congr hcfgt, ← hres] at hd hdd
  rw [← hres] at hod
  obtain ⟨v, hv, herr, hvlen, hbytes⟩ := exec_decrypt_padded (w := t.chained s.dstAddr d s.chain) (m := m) hvalid
    (by rw [hlen, ← hn]; exact hres) hd hdd hod ((chained_memRead ..).trans hread) (by rw [hlen]; exact hplain)
  rw [hlen] at hvlen hbytes
  exact ⟨t, v, hexec, hres, hv, herr, hvlen.trans (ofNat_srcL s), hbytes⟩

theorem exec_unpad_padded {w : State} {len : Nat} (hn : w.srcL = len + padCount len) (hs : w.regionOk w.src w.srcL = true)
    (hv : w.dmemByte (w.src + w.srcL - 1) = some (BitVec.ofNat 8 (padCount len))) :
    exec .unpad w = .next (w.withResLen len).finish := by
  obtain ⟨h1, h16, -⟩ := padCount_bounds len
  refine (execUnpad_ok hs (by omega) hv).trans ?_
  rw [toNat_padCount, withUnpad_ok h1 h16 (by omega), hn, Nat.add_sub_cancel]

/-- PAD, then UNPAD of its output. -/
theorem unpad_pad_restores {s : State} (hcfg : s.cfg.legal = true)
    (hr : s.regionOk s.src (s.srcL + padCount s.srcL) = true) :
    ∃ t v, exec .pad s = .next t ∧ exec .unpad { t with srcLen := t.resLen } = .next v ∧ v.err = false ∧
      v.resLen = s.srcLen ∧ ∀ k, k < s.srcL → v.dmemByte (s.src + k) = s.dmemByte (s.src + k) := by
  obtain ⟨h1, -, -⟩ := padCount_bounds s.srcL
  obtain ⟨t, hexec, hstore, hend⟩ : ∃ t, exec .pad s = .next t ∧ StoresOnly s t (s.src + s.srcL) (padBytes s.srcL) ∧
      t = ({ s with dmem := t.dmem, resLen := BitVec.ofNat 32 (s.srcL + padCount s.srcL) } : State).finish :=
    (padCommand.2 s).2 hr
  have hcfgt : t.cfg = s.cfg := by rw [hend]; rfl
  have hsrc : t.src = s.src := by rw [hend]; rfl
  have hres : t.resLen.toNat = s.srcL + padCount s.srcL := by
    have hle := regionOk_le hcfg hr
    rw [hend]
    exact toNat_ofNat_le (by omega)
  have hlast : t.dmemByte (t.src + t.resLen.toNat - 1) = some (BitVec.ofNat 8 (padCount s.srcL)) := by
    rw [hsrc, hres, hstore, padBytes_length, if_pos (by omega), padBytes, List.getElem?_replicate, if_pos (by omega)]
  have hok : t.regionOk t.src t.resLen.toNat = true := by rw [regionOk_congr hcfgt, hsrc, hres]; exact hr
  exact ⟨t, _, hexec, exec_unpad_padded (w := { t with srcLen := t.resLen }) hres hok hlast, rfl, ofNat_srcL s,
    fun k hk => (hstore (s.src + k)).trans (if_neg (by omega))⟩

/-- Settles O54, by the two round trips. -/
theorem encryptThenDecryptRestores : Obligations.EncryptThenDecryptRestores := by
  refine ⟨fun s u m d hcfg hcache hk hs hd ho hm hdd hod => ?_, fun s hcfg hr => unpad_pad_restores hcfg hr⟩
  have hdst : (BitVec.ofNat 32 d).toNat = d := by
    have hle := regionOk_le hcfg hdd
    exact toNat_ofNat_le (by omega)
  obtain ⟨t, v, hexec, hres, hdec, herr, hlen, hbytes⟩ := decrypt_encrypt_restores (d := BitVec.ofNat 32 d) rfl hcfg hcache hk
    hs hd ho hm (by rwa [hdst]) (by rwa [hdst])
  rw [hdst] at hbytes
  exact ⟨t, v, hexec, hres, by omega, by omega, by omega, hdec, herr, hlen, hbytes⟩

end Sys2Proof.Machine
end

section
/-! Streaming: a message hashed in parts leaves what it leaves hashed at once (48_hash_hmac.md section 2, R639). -/

namespace Sys2Proof.Machine

/-- Whole blocks at the front of a message can be compressed before the rest is padded (R634, R639). -/
theorem absorbFinal_append (alg : Alg) (h : Oct) {v w : List Byte} (hv : v.length % 64 = 0) (total : Nat) :
    absorbFinal alg h (v ++ w) total = absorbFinal alg (compressAll alg h v) w total := by
  have hmod : (v ++ w).length % 64 = w.length % 64 := by rw [List.length_append]; omega
  have hpadded : paddedMessage alg (v ++ w) total = v ++ paddedMessage alg w total := by
    simp only [paddedMessage, hmod, List.append_assoc]
  have hwhole : v.drop (64 * (v.length / 64)) = [] := List.drop_eq_nil_of_le (by omega)
  rw [absorbFinal_eq_foldBlocks, absorbFinal_eq_foldBlocks, hpadded, ← compressAll_eq_foldBlocks, ← compressAll_eq_foldBlocks,
    compressAll_append, hwhole, List.nil_append]

/-- What two ways of hashing are compared by: the chaining value, the count of bytes, RES_LEN and every DMEM byte. -/
def SameHash (t v : State) : Prop :=
  t.hstate = v.hstate ∧ t.hlen = v.hlen ∧ t.resLen = v.resLen ∧ ∀ o, t.dmemByte o = v.dmemByte o

theorem SameHash.trans {t v w : State} (h : SameHash t v) (g : SameHash v w) : SameHash t w := by
  obtain ⟨hs, hn, hr, hb⟩ := h
  obtain ⟨gs, gn, gr, gb⟩ := g
  exact ⟨hs.trans gs, hn.trans gn, hr.trans gr, fun o => (hb o).trans (gb o)⟩

/-- HASH_FINAL on `w` and on `m` do the same where the chaining values after them and the counts of bytes agree. -/
theorem hashFinished_sameHash {alg : Alg} {s t : State} {m w : List Byte} (hdst : t.dst = s.dst)
    (hbytes : ∀ o, t.dmemByte o = s.dmemByte o) (hn : t.hlenPlus w.length = s.hlenPlus m.length)
    (hh : ∀ total, absorbFinal alg t.hstate w total = absorbFinal alg s.hstate m total) :
    SameHash (t.hashFinished alg w).finish (s.hashFinished alg m).finish := by
  obtain ⟨ht, htend⟩ := hashFinished_outcome alg hn rfl
  obtain ⟨hs, hsend⟩ := hashFinished_outcome (s := s) (m := m) alg rfl rfl
  rw [← absorbFinal_eq_foldBlocks, hh, absorbFinal_eq_foldBlocks] at ht htend
  refine ⟨?_, ?_, rfl, fun o => ?_⟩
  · rw [htend, hsend]; rfl
  · rw [htend, hsend]; rfl
  · rw [ht, hs, hdst, hbytes]

/-- The state after HASH_UPDATE on the part `v` of the source, with SRC moved past it. -/
def State.afterPart (s : State) (alg : Alg) (v : List Byte) : State :=
  { (({ s with srcLen := BitVec.ofNat 32 v.length } : State).withHash (compressAll alg s.hstate v)
      (s.hlenPlus v.length)).finish with
    srcAddr := s.srcAddr + BitVec.ofNat 32 v.length, srcLen := s.srcLen - BitVec.ofNat 32 v.length }

theorem afterPart_dmemByte (s : State) (alg : Alg) (v : List Byte) (o : Nat) :
    (s.afterPart alg v).dmemByte o = s.dmemByte o := rfl

theorem toNat_part {s : State} {n : Nat} (hn : n ≤ s.srcL) : (BitVec.ofNat 32 n).toNat = n := by
  rw [BitVec.toNat_ofNat]
  exact Nat.mod_eq_of_lt (hn.trans_lt s.srcLen.isLt)

theorem srcL_afterPart {s : State} {v : List Byte} (hv : v.length ≤ s.srcL) (alg : Alg) :
    (s.afterPart alg v).srcL = s.srcL - v.length := by
  have hpart := toNat_part hv
  show (s.srcLen - BitVec.ofNat 32 v.length).toNat = s.srcLen.toNat - v.length
  rw [BitVec.toNat_sub_of_le (BitVec.le_def.2 (by rw [hpart]; exact hv)), hpart]

theorem src_afterPart {s : State} {v : List Byte} (hcfg : s.cfg.legal = true) (hs : s.regionOk s.src s.srcL = true)
    (hv : v.length ≤ s.srcL) (alg : Alg) : (s.afterPart alg v).src = s.src + v.length := by
  have hle : s.srcAddr.toNat + s.srcL ≤ 65536 := regionOk_le hcfg hs
  show (s.srcAddr + BitVec.ofNat 32 v.length).toNat = s.srcAddr.toNat + v.length
  rw [BitVec.toNat_add, toNat_part hv]
  exact Nat.mod_eq_of_lt (by omega)

/-- A part of a region from an aligned offset on passes CheckRegion (20_memory.md R206). -/
theorem regionOk_sub {s : State} {a n j k : Nat} (h : s.regionOk a n = true) (hj : j % 4 = 0) (hk : j + k ≤ n) :
    s.regionOk (a + j) k = true := by
  simp only [State.regionOk, Bool.and_eq_true, decide_eq_true_eq] at h ⊢
  omega

theorem execHashUpdate_ok {alg : Alg} {s : State} {v : List Byte} (hs : s.regionOk s.src s.srcL = true)
    (hl : s.srcL % 64 = 0) (hv : s.memRead s.src s.srcL = .ok v) :
    execHashUpdate alg s = .next (s.withHash (compressAll alg s.hstate v) (s.hlenPlus v.length)).finish := by
  rw [execHashUpdate, withRegion_ok hs, if_neg (not_not.2 hl), withBytes_ok hv, State.memRead_length hv]

/-- HASH_UPDATE on a part `v` at the start of the source, of whole blocks (R633). -/
theorem hashInParts_cons {alg : Alg} {s : State} {v : List Byte} (hs : s.regionOk s.src s.srcL = true)
    (hn : v.length ≤ s.srcL) (h64 : v.length % 64 = 0) (hv : s.memRead s.src v.length = .ok v) (ns : List Nat) :
    hashInParts alg (v.length :: ns) s = hashInParts alg ns (s.afterPart alg v) := by
  have hpart := toNat_part hn
  have hregion : s.regionOk s.src (BitVec.ofNat 32 v.length).toNat = true := by
    rw [hpart]; exact regionOk_sub (j := 0) hs rfl (by omega)
  have hread : s.memRead s.src (BitVec.ofNat 32 v.length).toNat = .ok v := by rw [hpart]; exact hv
  have hexec := execHashUpdate_ok (alg := alg) (s := { s with srcLen := BitVec.ofNat 32 v.length }) hregion
    (show (BitVec.ofNat 32 v.length).toNat % 64 = 0 by rw [hpart]; exact h64) (memRead_of_agree hread fun _ _ => rfl)
  rw [hashInParts, show exec (.hashUpdate alg) _ = _ from hexec]
  rfl

/-- A message in parts of whole blocks and a rest is hashed as HASH_FINAL on the whole of it would. -/
theorem hashInParts_sameHash (alg : Alg) (parts : List Nat) : ∀ (s : State) (m : List Byte), s.cfg.legal = true →
    s.regionOk s.src s.srcL = true → s.regionOk s.dst (digestLen alg) = true → s.memRead s.src s.srcL = .ok m →
    (∀ n ∈ parts, n % 64 = 0) → parts.sum ≤ s.srcL →
    ∃ t, hashInParts alg parts s = .next t ∧ SameHash t (s.hashFinished alg m).finish := by
  induction parts with
  | nil =>
    intro s m _ hs hd hm _ _
    exact ⟨_, withHashOperands_ok hs hd hm _, rfl, rfl, rfl, fun _ => rfl⟩
  | cons n ns ih =>
    intro s m hcfg hs hd hm h64 hsum
    rw [List.sum_cons] at hsum
    rw [List.forall_mem_cons] at h64
    obtain ⟨hn64, hns64⟩ := h64
    have hlen : m.length = s.srcL := State.memRead_length hm
    obtain ⟨v, w, rfl, rfl⟩ : ∃ v w : List Byte, m = v ++ w ∧ v.length = n :=
      ⟨m.take n, m.drop n, (List.take_append_drop n m).symm, by rw [List.length_take]; omega⟩
    rw [List.length_append] at hlen
    have hv : v.length ≤ s.srcL := by omega
    have hfirst : s.memRead s.src v.length = .ok v := by
      have hsub := memRead_sub hm (j := 0) (k := v.length) (by omega)
      rwa [List.drop_zero, List.take_left] at hsub
    have hrest : s.memRead (s.src + v.length) (s.srcL - v.length) = .ok w := by
      rw [memRead_sub hm (by omega), List.drop_left, List.take_of_length_le (by omega)]
    rw [hashInParts_cons hs hv hn64 hfirst]
    have hsrc := src_afterPart hcfg hs hv alg
    have hsrcL := srcL_afterPart hv alg
    obtain ⟨t, ht, hsame⟩ := ih (s.afterPart alg v) w hcfg
      (by rw [hsrc, hsrcL]; exact regionOk_sub hs (by omega) (by omega)) hd
      (by rw [hsrc, hsrcL, memRead_congr (afterPart_dmemByte s alg v)]; exact hrest) hns64 (by omega)
    have hcount : (s.afterPart alg v).hlenPlus w.length = s.hlenPlus (v ++ w).length := by
      rw [List.length_append, State.hlenPlus, State.hlenPlus, BitVec.ofNat_add, ← BitVec.add_assoc]
      rfl
    exact ⟨t, ht, hsame.trans (hashFinished_sameHash rfl (afterPart_dmemByte s alg v) hcount fun total =>
      (absorbFinal_append alg s.hstate hn64 total).symm)⟩

/-- Settles O58, by induction over the parts: HASH is HASH_FINAL from the initial value. -/
theorem streamingEqualsOneShot : Obligations.StreamingEqualsOneShot := by
  intro alg s m parts hcfg hs hd hm h64 hsum
  have hread : (s.withHash (hashIv alg) 0).finish.memRead s.src s.srcL = .ok m :=
    memRead_of_agree hm fun _ _ => rfl
  obtain ⟨t, ht, hst, hn, hr, hb⟩ :=
    hashInParts_sameHash alg parts (s.withHash (hashIv alg) 0).finish m hcfg hs hd hread h64 hsum
  exact ⟨t, _, ht, withHashOperands_ok hs hd hm _, hst, hn, hr, hb⟩

end Sys2Proof.Machine
end

section
/-! Checks: the errors of a command in the order of its checks, and what its work keeps (60_exceptions.md R800 to R812). -/

namespace Sys2Proof.Machine

/-! ### What an error keeps -/

/-- The states an error may leave before its record: the old one, or the one KeyReady filled (60_exceptions.md R806, R808). -/
def FilledFrom (s u : State) : Prop := u = s ∨ (s.keyValid = false ∧ keyLenOk s.keyLen = true ∧ u = s.keyFilled)

theorem FilledFrom.refl (s : State) : FilledFrom s s := .inl rfl

theorem FilledFrom.of_keyReady {s u : State} (h : s.keyReady = some u) : FilledFrom s u :=
  (keyReady_some.1 h).imp And.right id

/-- A state with the key made ready is not filled again. -/
theorem FilledFrom.after_keyReady {s u v : State} (h : s.keyReady = some u) (g : FilledFrom u v) : FilledFrom s v := by
  obtain rfl | ⟨hv, -, -⟩ := g
  · exact .of_keyReady h
  · rw [keyReady_keyValid h] at hv
    cases hv

/-! ### What the work of a command keeps -/

/-- What the work of any command keeps, before its completion record: the host's part, the pending bits, a sound key cache and
a well-formed DMEM. -/
structure SoundWork (s u : State) : Prop where
  host : u.hostPart = s.hostPart
  irqStatus : u.irqStatus = s.irqStatus
  key : s.KeyCacheOk → u.KeyCacheOk
  dmem : s.DmemOk → u.DmemOk

namespace SoundWork

variable {s t u : State}

theorem refl (s : State) : SoundWork s s := ⟨rfl, rfl, id, id⟩

theorem trans (h : SoundWork s u) (g : SoundWork u t) : SoundWork s t :=
  ⟨g.host.trans h.host, g.irqStatus.trans h.irqStatus, g.key ∘ h.key, g.dmem ∘ h.dmem⟩

theorem withBlock (s : State) (q : Quad) : SoundWork s (s.withBlock q) := ⟨rfl, rfl, id, id⟩

theorem withChain (s : State) (q : Quad) : SoundWork s (s.withChain q) := ⟨rfl, rfl, id, id⟩

theorem withHash (s : State) (h : Oct) (n : BitVec 64) : SoundWork s (s.withHash h n) := ⟨rfl, rfl, id, id⟩

theorem withResLen (s : State) (n : Nat) : SoundWork s (s.withResLen n) := ⟨rfl, rfl, id, id⟩

theorem gfmul (s : State) (r : Word) : SoundWork s { s with result := r } := ⟨rfl, rfl, id, id⟩

theorem keyCleared (s : State) : SoundWork s s.keyCleared := ⟨rfl, rfl, fun _ => ⟨rfl, rfl⟩, id⟩

theorem keyFilled (h : keyLenOk s.keyLen = true) : SoundWork s s.keyFilled :=
  ⟨rfl, rfl, fun _ => ⟨h, rfl, rfl, rfl, rfl⟩, id⟩

theorem of_filledFrom (h : FilledFrom s u) : SoundWork s u := by
  obtain rfl | ⟨-, hl, rfl⟩ := h
  · exact refl _
  · exact keyFilled hl

theorem memWrite {a : Nat} {vs : List Byte} (h : a + vs.length ≤ s.dmemBytes) : SoundWork s (s.memWrite a vs) where
  host := rfl
  irqStatus := rfl
  key := id
  dmem := fun ⟨hwf, hlt⟩ => ⟨Memory.writeBytes_wf vs hwf a, fun c hc =>
    (Memory.mem_writeBytes vs hc).elim (fun hin => hin.2.trans_le h) (hlt c)⟩

theorem region {b n : Nat} (h : RegionFrame s t b n) (hb : b + n ≤ s.dmemBytes) : SoundWork s t where
  host := by rw [h.same]; rfl
  irqStatus := by rw [h.same]
  key hk := by rw [h.same]; exact hk
  dmem := fun ⟨hwf, hlt⟩ => ⟨h.wf hwf, fun c hc => by
    have hsize : t.dmemBytes = s.dmemBytes := by rw [h.same]; rfl
    rw [hsize]
    exact (h.listed c hc).elim (fun hin => hin.2.trans_le hb) (hlt c)⟩

end SoundWork

theorem regionOk_end {s : State} {a n : Nat} (h : s.regionOk a n = true) : a + n ≤ s.dmemBytes := by
  simp only [State.regionOk, Bool.and_eq_true, decide_eq_true_eq] at h
  exact h.2

/-! ### Checks in order -/

/-- The error of the first check of a list that fails (60_exceptions.md R812). -/
def firstFailing (cs : List (Bool × Err)) : Option Err := (cs.find? (·.1)).map (·.2)

/-- How a command ends once its listed checks have passed: with success, or on the padding (45_pkcs7.md R533, R535). -/
inductive Passed (late : Bool) (s : State) : State → Prop
  | success {u : State} (h : SoundWork s u) : Passed late s (u.record none)
  | padding {u : State} (hl : late = true) (h : FilledFrom s u) : Passed late s (u.record (some .invalidPadding))

/-- A result obeys a list of checks: the first that fails is its error, on the old state or the filled one; past them a completion
has passed. `late` says whether the padding may still be bad then. -/
structure Checked (late : Bool) (cs : List (Bool × Err)) (s : State) (r : Result) : Prop where
  fails : ∀ e, firstFailing cs = some e → ∃ u, FilledFrom s u ∧ r = .next (u.raise e)
  passes : firstFailing cs = none → ∀ t, r = .next t → Passed late s t

section

variable {late : Bool} {cs : List (Bool × Err)} {s u : State}

theorem Checked.of_passed {r : Result} (h : ∀ t, r = .next t → Passed late s t) : Checked late [] s r :=
  ⟨nofun, fun _ => h⟩

theorem Checked.finish (h : SoundWork s u) : Checked late [] s (.next u.finish) :=
  .of_passed <| by rintro _ ⟨⟩; exact .success h

/-- A check in front of a list of checks. -/
theorem Checked.cons {b : Bool} {e : Err} {r : Result} (hfail : b = true → r = .next (s.raise e))
    (hpass : b = false → Checked late cs s r) : Checked late ((b, e) :: cs) s r := by
  cases b with
  | false => exact ⟨(hpass rfl).fails, (hpass rfl).passes⟩
  | true => exact ⟨fun e' he => ⟨s, .refl s, (Option.some.inj he) ▸ hfail rfl⟩, nofun⟩

theorem Checked.ite {P : Prop} [Decidable P] {e : Err} {k : Result} (hk : ¬ P → Checked late cs s k) :
    Checked late ((decide P, e) :: cs) s (if P then .next (s.raise e) else k) :=
  .cons (fun h => if_pos (of_decide_eq_true h)) fun h => by
    rw [if_neg (of_decide_eq_false h)]; exact hk (of_decide_eq_false h)

theorem withRegion_checked {a n : Nat} {k : Result} (hk : s.regionOk a n = true → Checked late cs s k) :
    Checked late ((!s.regionOk a n, .addressError) :: cs) s (withRegion s a n k) :=
  .cons (fun h => withRegion_bad (by simpa using h) k) fun h => by
    have hok : s.regionOk a n = true := by simpa using h
    rw [withRegion_ok hok]; exact hk hok

/-- What holds of the state with the key made ready holds of the old one. -/
theorem Checked.of_keyReady {r : Result} (h : s.keyReady = some u) (hu : Checked late cs u r) : Checked late cs s r where
  fails e he := by
    obtain ⟨v, hv, hr⟩ := hu.fails e he
    exact ⟨v, hv.after_keyReady h, hr⟩
  passes hcs t ht := by
    cases hu.passes hcs t ht with
    | success hw => exact .success ((SoundWork.of_filledFrom (.of_keyReady h)).trans hw)
    | padding hl hf => exact .padding hl (hf.after_keyReady h)

/-- The key check of 60_exceptions.md R802 fails exactly where KeyReady does. -/
theorem withKey_checked {k : State → Result} (hk : ∀ u, s.keyReady = some u → Checked late cs u (k u)) :
    Checked late ((!s.keyValid && !keyLenOk s.keyLen, .invalidKeySize) :: cs) s (withKey s k) :=
  .cons (fun h => withKey_none (keyReady_none.2 (by simpa using h)) k) fun h => by
    cases hu : s.keyReady with
    | none => rw [keyReady_none] at hu; simp [hu] at h
    | some u => rw [withKey_ok hu]; exact (hk u hu).of_keyReady hu

theorem withBytes_checked {a n : Nat} {k : List Byte → Result} (hk : ∀ vs, Checked late [] s (k vs)) :
    Checked late [] s (withBytes s a n k) :=
  .of_passed fun t h => by
    obtain ⟨vs, -, h⟩ := withBytes_next.1 h
    exact (hk vs).passes rfl t h

theorem withBytesIf_checked {needed : Bool} {a n : Nat} {k : List Byte → Result} (hk : ∀ vs, Checked late [] s (k vs)) :
    Checked late [] s (withBytesIf needed s a n k) := by
  cases needed with
  | false => exact hk []
  | true => exact withBytes_checked hk

theorem withUnpad_checked {n len : Nat} {k : Nat → Result} (hk : Checked true [] s (k n)) :
    Checked true [] s (withUnpad s n len k) :=
  .of_passed fun t h => by
    obtain ⟨-, h⟩ | ⟨-, rfl⟩ := withUnpad_next.1 h
    · exact hk.passes rfl t h
    · exact .padding rfl (.refl s)

theorem withLastPlain_checked {k : Byte → Result} (hk : ∀ v, Checked late [] s (k v)) :
    Checked late [] s (withLastPlain s k) :=
  .of_passed fun t h => by
    obtain ⟨_, -, h⟩ := withLastPlain_next.1 h
    obtain ⟨-, h⟩ | ⟨-, _, -, h⟩ := withPrevLast_next.1 h
    · exact (hk _).passes rfl t h
    · exact (hk _).passes rfl t h

/-- A run of blocks over a region that passed CheckRegion, then RES_LEN. -/
theorem andThen_region_checked {r : Result} {b n m : Nat} (hr : ∀ v, r = .next v → RegionFrame s v b n)
    (hb : s.regionOk b n = true) : Checked late [] s (andThen r fun v => .next (v.withResLen m).finish) :=
  .of_passed fun t h => by
    obtain ⟨v, hv, h⟩ := andThen_next.1 h
    exact (Checked.finish ((SoundWork.region (hr v hv) (regionOk_end hb)).trans (.withResLen v m))).passes rfl t h

theorem keyReady_srcL (h : s.keyReady = some u) : u.srcL = s.srcL := by rw [keyReady_frame h]; rfl

/-- Nr as the round check reads it: of the valid cache, or of the one KeyReady fills (42_aes_round.md R458). -/
theorem keyReady_nr (h : s.keyReady = some u) :
    u.nr.toNat = if s.keyValid then s.nr.toNat else s.keyLen.toNat / 4 + 6 := by
  obtain ⟨hv, rfl⟩ | ⟨hv, hl, rfl⟩ := keyReady_some.1 h
  · rw [if_pos hv]
  · have hnk := nkOf_cases (keyLenOk_iff.1 hl)
    rw [if_neg (by simp [hv]), State.keyFilled_nr, BitVec.toNat_ofNat]
    unfold nkOf at *
    omega

theorem withRound_checked {r : Nat} {k : State → Result} (hk : ∀ u, Checked late [] u (k u)) :
    Checked late [(!s.keyValid && !keyLenOk s.keyLen, .invalidKeySize),
      (decide ((if s.keyValid then s.nr.toNat else s.keyLen.toNat / 4 + 6) < r), .illegalCommand)] s (withRound s r k) :=
  withKey_checked fun u hu => by rw [← keyReady_nr hu]; exact .ite fun _ => hk u

/-- The checks of the CBC buffer commands, with the length as it was before KeyReady (44_cbc.md R504). -/
theorem withCbcBuffer_checked {k : State → Result}
    (hk : ∀ u, u.srcL = s.srcL → u.regionOk u.dst u.srcL = true → u.srcL % 16 = 0 → Checked late cs u (k u)) :
    Checked late ((!s.regionOk s.src s.srcL, .addressError) :: (!s.regionOk s.dst s.srcL, .addressError) ::
      (!s.keyValid && !keyLenOk s.keyLen, .invalidKeySize) :: (decide (s.srcL % 16 ≠ 0), .internalError) :: cs) s
      (withCbcBuffer s k) :=
  withRegion_checked fun _ => withRegion_checked fun hd => withKey_checked fun u hu => by
    have hreg := congrArg (fun v : State => v.regionOk v.dst v.srcL) (keyReady_hostPart hu)
    rw [← keyReady_srcL hu]
    exact .ite fun hl => hk u (keyReady_srcL hu) (hreg.trans hd) (not_not.1 hl)

theorem withHashOperands_checked {alg : Alg} {k : List Byte → Result}
    (hk : ∀ m, s.regionOk s.dst (digestLen alg) = true → Checked late [] s (k m)) :
    Checked late [(!s.regionOk s.src s.srcL, .addressError), (!s.regionOk s.dst (digestLen alg), .addressError)] s
      (withHashOperands alg s k) :=
  withRegion_checked fun _ => withRegion_checked fun hd => withBytes_checked fun m => hk m hd

theorem withKdfOperands_checked {k : List Byte → List Byte → Result}
    (hk : ∀ p salt, s.regionOk s.dst s.kdfLen = true → Checked late [] s (k p salt)) :
    Checked late [(!s.regionOk s.aux s.auxL, .addressError), (!s.regionOk s.salt s.saltL, .addressError),
      (!s.regionOk s.dst s.kdfLen, .addressError)] s (withKdfOperands s k) :=
  withRegion_checked fun _ => withRegion_checked fun _ => withRegion_checked fun hd =>
    withBytesIf_checked fun p => withBytesIf_checked fun salt => hk p salt hd

theorem deliver_checked {r : List Byte} {n : Nat} (hr : r.length = n) (hd : s.regionOk s.dst n = true) :
    Checked late [] s (.next (s.deliver r n).finish) :=
  .finish ((SoundWork.memWrite (by rw [hr]; exact regionOk_end hd)).trans (.withResLen _ n))

theorem hashFinished_sound {alg : Alg} {m : List Byte} (hd : s.regionOk s.dst (digestLen alg) = true) :
    SoundWork s (s.hashFinished alg m) :=
  (SoundWork.withHash s _ _).trans ((SoundWork.memWrite (by rw [digest_length]; exact regionOk_end hd)).trans
    (.withResLen _ _))

end

/-! ### The commands -/

/-- The commands that may find bad padding after their other checks (45_pkcs7.md R533, R535). -/
def mayFindBadPadding (i : Instr) : Bool := decide (i = .unpad ∨ i = .decrypt)

theorem execKeyexp_checked (s : State) :
    Checked false [(!keyLenOk s.keyLen, .invalidKeySize)] s (execKeyexp s) :=
  .cons (fun h => execKeyexp_illegal (by simpa using h)) fun h => by
    have hl : keyLenOk s.keyLen = true := by simpa using h
    rw [execKeyexp_legal hl]
    exact .finish (.keyFilled hl)

theorem execDecrypt_checked (s : State) : Checked true (errorChecks .decrypt s) s (execDecrypt s) :=
  withCbcBuffer_checked fun u hlen hd hl => by
    rw [← hlen]
    exact .ite fun _ => withLastPlain_checked fun v => withUnpad_checked
      (andThen_region_checked (fun _ => cbcDecLoop_region hl) hd)

theorem execEncrypt_checked (s : State) : Checked false (errorChecks .encrypt s) s (execEncrypt s) :=
  withRegion_checked fun _ => withRegion_checked fun hd => withKey_checked fun u hu => withBytes_checked fun vs => by
    obtain ⟨-, -, hmod⟩ := padCount_bounds s.srcL
    have hreg := congrArg (fun v : State => v.regionOk v.dst (s.srcL + padCount s.srcL)) (keyReady_hostPart hu)
    have hf := cbcEncString_frame (partialOverlap u.src u.srcL u.dst (s.srcL + padCount s.srcL))
      ((s.srcL + padCount s.srcL) / 16) u.dst (vs ++ padBytes u.srcL) u
    rw [show 16 * ((s.srcL + padCount s.srcL) / 16) = s.srcL + padCount s.srcL by omega] at hf
    exact .finish ((SoundWork.region hf (regionOk_end (hreg.trans hd))).trans (.withResLen _ _))

theorem execCbcEncBuf_checked (s : State) : Checked false (errorChecks .cbcEncBuf s) s (execCbcEncBuf s) :=
  withCbcBuffer_checked fun u _ hd hl => andThen_region_checked (fun v hv => by
    have hf := cbcEncLoop_frame _ _ _ _ _ _ hv
    rwa [show 16 * (u.srcL / 16) = u.srcL by omega] at hf) hd

/-- Every command obeys the table of 60_exceptions.md R802. -/
theorem exec_checked (i : Instr) (s : State) : Checked (mayFindBadPadding i) (errorChecks i s) s (exec i s) := by
  cases i with
  | nop => exact .finish (.refl s)
  | keyexp => exact execKeyexp_checked s
  | keyclr => exact .finish (.keyCleared s)
  | aesEnc => exact withKey_checked fun u _ => .finish (.withBlock u _)
  | aesDec => exact withKey_checked fun u _ => .finish (.withBlock u _)
  | subbytes => exact .finish (.withBlock s _)
  | invsubbytes => exact .finish (.withBlock s _)
  | shiftrows => exact .finish (.withBlock s _)
  | invshiftrows => exact .finish (.withBlock s _)
  | mixcolumns => exact .finish (.withBlock s _)
  | invmixcolumns => exact .finish (.withBlock s _)
  | addrk r => exact withRound_checked fun u => .finish (.withBlock u _)
  | addirk r => exact withRound_checked fun u => .finish (.withBlock u _)
  | gfmul a b => exact .finish (.gfmul s _)
  | cbcEncBlk => exact withKey_checked fun u _ => .finish ((SoundWork.withChain u _).trans (.withBlock _ _))
  | cbcDecBlk => exact withKey_checked fun u _ => .finish ((SoundWork.withChain u _).trans (.withBlock _ _))
  | cbcEncBuf => exact execCbcEncBuf_checked s
  | cbcDecBuf =>
    exact withCbcBuffer_checked fun _ _ hd hl => andThen_region_checked (fun _ => cbcDecLoop_region hl) hd
  | pad =>
    exact withRegion_checked fun hd => .finish ((SoundWork.memWrite (by
      rw [padBytes_length, Nat.add_assoc]; exact regionOk_end hd)).trans (.withResLen _ _))
  | unpad =>
    exact withRegion_checked fun _ => .ite fun _ => withBytes_checked fun _ => withUnpad_checked
      (.finish (.withResLen s _))
  | encrypt => exact execEncrypt_checked s
  | decrypt => exact execDecrypt_checked s
  | hashInit alg => exact .finish (.withHash s _ _)
  | hashUpdate alg => exact withRegion_checked fun _ => .ite fun _ => withBytes_checked fun _ => .finish (.withHash s _ _)
  | hashFinal alg => exact withHashOperands_checked fun _ hd => .finish (hashFinished_sound hd)
  | hash alg =>
    exact withHashOperands_checked fun _ hd => .finish ((SoundWork.withHash s _ _).trans (hashFinished_sound hd))
  | hmac alg =>
    exact withRegion_checked fun _ => withRegion_checked fun _ => withRegion_checked fun hd =>
      withBytes_checked fun _ => withBytes_checked fun _ => deliver_checked (hmacOf_length alg _ _) hd
  | pbkdf2 alg => exact withKdfOperands_checked fun _ _ hd => deliver_checked (pbkdf2Of_length alg _ _ _ _) hd
  | evpkdf alg => exact withKdfOperands_checked fun _ _ hd => deliver_checked (evpkdfOf_length alg _ _ _ _) hd

/-- How any command word completes: with success after sound work, or with an error on the old state or the filled one. -/
theorem runCommand_next {c : Word} {s t : State} (h : runCommand c s = .next t) :
    (∃ u, SoundWork s u ∧ t = u.record none) ∨ ∃ u e, FilledFrom s u ∧ t = u.record (some e) := by
  unfold runCommand at h
  split at h
  · obtain ⟨⟩ := h
    exact .inr ⟨s, _, .refl s, rfl⟩
  · next i _ =>
    have hc := exec_checked i s
    cases hf : firstFailing (errorChecks i s) with
    | some e =>
      obtain ⟨u, hu, hr⟩ := hc.fails e hf
      rw [h] at hr
      exact .inr ⟨u, e, hu, Host.Outcome.next.inj hr⟩
    | none =>
      cases hc.passes hf t h with
      | success hw => exact .inl ⟨_, hw, rfl⟩
      | padding _ hu => exact .inr ⟨_, _, hu, rfl⟩

/-- Settles O10: only KeyReady has changed anything where an error is raised. -/
theorem errorsArePrecise : Obligations.ErrorsArePrecise := by
  intro c s t h herr
  obtain ⟨u, -, rfl⟩ | ⟨u, e, rfl | ⟨hv, hl, rfl⟩, rfl⟩ := runCommand_next h
  · cases herr
  · exact ⟨e, .inl rfl⟩
  · exact ⟨e, .inr ⟨hv, keyLenOk_iff.1 hl, rfl⟩⟩

/-- Settles O12: every command obeys the table of its checks. -/
theorem commandErrorsInCheckOrder : Obligations.CommandErrorsInCheckOrder := by
  refine fun i s => ⟨fun e he => ?_, fun t hnone h => ?_⟩
  · obtain ⟨u, -, hr⟩ := (exec_checked i s).fails e he
    exact ⟨_, hr, rfl, rfl⟩
  · cases (exec_checked i s).passes hnone t h with
    | success _ => exact .inl rfl
    | padding hl _ => exact .inr ⟨of_decide_eq_true hl, rfl, rfl⟩

/-- Settles O9: the record is the one operation that ends a command, and its work leaves the pending bits alone. -/
theorem completionRecord : Obligations.CompletionRecord := by
  refine ⟨fun s t c left hp hl h => ?_, fun _ => rfl, fun _ _ => rfl⟩
  rw [engineStep_run hp, if_pos hl] at h
  obtain ⟨u, hw, rfl⟩ | ⟨u, e, hf, rfl⟩ := runCommand_next h
  · exact ⟨rfl, rfl, rfl, .inl ⟨rfl, rfl, congrArg (· ||| 0b001#3) hw.irqStatus⟩⟩
  · have hcode : e.code ∈ ([1, 2, 4, 5, 6] : List (BitVec 4)) := by cases e <;> decide
    exact ⟨rfl, rfl, rfl, .inr ⟨rfl, hcode, congrArg (· ||| 0b011#3) (SoundWork.of_filledFrom hf).irqStatus⟩⟩

end Sys2Proof.Machine
end

section
/-! Kdf: PBKDF2 and EVPKDF (49_kdf.md R680 to R684). -/

namespace Sys2Proof.Machine

/-! ### Enough blocks, cut off -/

theorem kdfBlocks_le (alg : Alg) (n : Nat) : kdfBlocks alg n ≤ n / digestLen alg + 1 := by
  rw [← Nat.add_div_right n (digestLen_pos alg)]
  exact Nat.div_le_div_right (Nat.sub_le _ 1)

/-- Blocks past the length wanted do not show. -/
theorem take_flatMap_range {f : Nat → List Byte} {d a b n : Nat} (hf : ∀ i, (f i).length = d) (hab : a ≤ b)
    (hn : n ≤ a * d) : ((List.range b).flatMap f).take n = ((List.range a).flatMap f).take n := by
  have hlen : ((List.range a).flatMap f).length = a * d := by simp [List.length_flatMap, hf]
  obtain ⟨k, rfl⟩ := Nat.exists_eq_add_of_le hab
  rw [List.range_add, List.flatMap_append, List.take_append_of_le_length (by omega)]

/-! ### PBKDF2 (R680) -/

theorem pbkdf2Iterate_eq_foldl (alg : Alg) (p : List Byte) (n : Nat) : ∀ u t : List Byte,
    pbkdf2Iterate alg p n u t =
      (List.range n).foldl (fun t j => xorBytes t ((messageMac alg p)^[j + 1] u)) t := by
  induction n with
  | zero => exact fun _ _ => rfl
  | succ n ih =>
    intro u t
    rw [pbkdf2Iterate, ih, List.range_succ_eq_map, List.foldl_cons, List.foldl_map, hmacOf_eq_messageMac]
    rfl

theorem pbkdf2Block_eq_part (alg : Alg) (p salt : List Byte) (c i : Nat) :
    pbkdf2Block alg p salt c i = pbkdf2Part alg p salt c i := by
  rw [pbkdf2Block, pbkdf2Iterate_eq_foldl, hmacOf_eq_messageMac]
  rfl

theorem pbkdf2Blocks_eq_flatMap (alg : Alg) (p salt : List Byte) (c n : Nat) : ∀ i,
    pbkdf2Blocks alg p salt c n i = (List.range n).flatMap fun k => pbkdf2Part alg p salt c (i + k) := by
  induction n with
  | zero => exact fun _ => rfl
  | succ n ih =>
    intro i
    rw [pbkdf2Blocks, ih, List.range_succ_eq_map, List.flatMap_cons, List.flatMap_map, pbkdf2Block_eq_part]
    simp only [Nat.add_zero, Nat.succ_eq_add_one, Nat.add_assoc, Nat.add_comm 1]

theorem pbkdf2Of_eq_key (alg : Alg) (p salt : List Byte) (c len : Nat) :
    pbkdf2Of alg p salt c len = pbkdf2Key alg p salt c len := by
  rw [pbkdf2Of, pbkdf2Key, pbkdf2Blocks_eq_flatMap]
  simp only [Nat.add_comm 1]
  exact (take_flatMap_range (fun i => by rw [← pbkdf2Block_eq_part]; exact pbkdf2Block_length alg p salt c _)
    (kdfBlocks_le alg len) (le_kdfBlocks_mul alg len)).symm

/-! ### EVPKDF (R682) -/

theorem rehash_eq_iterate (alg : Alg) (n : Nat) : ∀ d : List Byte, rehash alg n d = (messageHash alg)^[n] d := by
  induction n with
  | zero => exact fun _ => rfl
  | succ n ih => intro d; rw [rehash, ih, hashOf_eq_messageHash]; rfl

theorem evpkdfPart_succ (alg : Alg) (p salt : List Byte) {c : Nat} (hc : 1 ≤ c) (i : Nat) :
    rehash alg (c - 1) (hashOf alg (evpkdfPart alg p salt c i ++ p ++ salt)) = evpkdfPart alg p salt c (i + 1) := by
  obtain ⟨c, rfl⟩ := Nat.exists_eq_add_of_le' hc
  rw [rehash_eq_iterate, hashOf_eq_messageHash]
  rfl

theorem evpkdfBlocks_eq_flatMap (alg : Alg) (p salt : List Byte) {c : Nat} (hc : 1 ≤ c) (n : Nat) : ∀ i,
    evpkdfBlocks alg p salt c n (evpkdfPart alg p salt c i) =
      (List.range n).flatMap fun k => evpkdfPart alg p salt c (i + k + 1) := by
  induction n with
  | zero => exact fun _ => rfl
  | succ n ih =>
    intro i
    rw [evpkdfBlocks, evpkdfPart_succ alg p salt hc, ih, List.range_succ_eq_map, List.flatMap_cons, List.flatMap_map]
    simp only [Nat.add_zero, Nat.succ_eq_add_one, Nat.add_assoc, Nat.add_comm 1]

theorem evpkdfOf_eq_key (alg : Alg) (p salt : List Byte) {c : Nat} (hc : 1 ≤ c) (len : Nat) :
    evpkdfOf alg p salt c len = evpkdfKey alg p salt c len := by
  have hblocks := evpkdfBlocks_eq_flatMap alg p salt hc (kdfBlocks alg len) 0
  simp only [Nat.zero_add] at hblocks
  rw [evpkdfOf, evpkdfKey, show evpkdfBlocks alg p salt c (kdfBlocks alg len) [] = _ from hblocks]
  exact (take_flatMap_range (fun i => by
    rw [← evpkdfPart_succ alg p salt hc]; exact rehash_length alg _ _ (hashOf_length alg _))
    (kdfBlocks_le alg len) (le_kdfBlocks_mul alg len)).symm

/-! ### The commands (R681, R683) -/

/-- Past its checks a KDF command has its inputs, but where its output is empty it has read none (log entry 11). -/
theorem withKdfOperands_ok {s : State} {p salt : List Byte} (ha : s.regionOk s.aux s.auxL = true)
    (hs : s.regionOk s.salt s.saltL = true) (hd : s.regionOk s.dst s.kdfLen = true)
    (hp : s.memRead s.aux s.auxL = .ok p) (hsalt : s.memRead s.salt s.saltL = .ok salt) {k : List Byte → List Byte → Result}
    (hempty : s.kdfLen = 0 → k [] [] = k p salt) : withKdfOperands s k = k p salt := by
  rw [withKdfOperands, withRegion_ok ha, withRegion_ok hs, withRegion_ok hd]
  by_cases h0 : s.kdfLen = 0
  · simp only [h0, ne_eq, not_true_eq_false, decide_false]
    exact hempty h0
  · simp only [ne_eq, h0, not_false_eq_true, decide_true]
    exact (withBytes_ok hp _).trans (withBytes_ok hsalt _)

/-- A key function cut to the length wanted: an empty key depends on no input. -/
theorem withKdfOperands_deliver {s : State} {p salt : List Byte} {key : List Byte → List Byte → List Byte}
    (hlen : ∀ p salt, (key p salt).length = s.kdfLen) (ha : s.regionOk s.aux s.auxL = true)
    (hs : s.regionOk s.salt s.saltL = true) (hd : s.regionOk s.dst s.kdfLen = true)
    (hp : s.memRead s.aux s.auxL = .ok p) (hsalt : s.memRead s.salt s.saltL = .ok salt) :
    withKdfOperands s (fun p salt => .next (s.deliver (key p salt) s.kdfLen).finish) =
      .next (s.deliver (key p salt) s.kdfLen).finish := by
  refine withKdfOperands_ok ha hs hd hp hsalt fun h0 => ?_
  rw [List.length_eq_zero_iff.1 ((hlen [] []).trans h0), List.length_eq_zero_iff.1 ((hlen p salt).trans h0)]

theorem withKdfOperands_bad {s : State}
    (h : s.regionOk s.aux s.auxL = false ∨ s.regionOk s.salt s.saltL = false ∨ s.regionOk s.dst s.kdfLen = false)
    (k : List Byte → List Byte → Result) : withKdfOperands s k = .next (s.raise .addressError) :=
  withKdfOperands_next.2 (.inr ⟨h, rfl⟩)

theorem kdfCount_eq (s : State) : s.kdfCount = if s.iter = 0 then 1 else s.iter.toNat := by
  have hzero : s.iter = 0 ↔ s.iter.toNat = 0 := BitVec.toNat_eq
  rw [State.kdfCount]
  split
  · next h => rw [hzero.1 h]; rfl
  · next h => exact max_eq_left (Nat.one_le_iff_ne_zero.2 (mt hzero.2 h))

/-- Settles O60: past its checks each command is one write, of its key. -/
theorem keyDerivationCommands : Obligations.KeyDerivationCommands := by
  refine ⟨formH_of_row (lookup_opcodes_iff.1 rfl), formH_of_row (lookup_opcodes_iff.1 rfl), fun alg s =>
    ⟨fun hbad => ⟨withKdfOperands_bad hbad _, withKdfOperands_bad hbad _⟩, fun p salt ha hs hd hp hsalt => ?_⟩⟩
  have hcount : 1 ≤ s.kdfCount := le_max_right _ _
  rw [← kdfCount_eq, ← pbkdf2Of_eq_key, ← evpkdfOf_eq_key alg p salt hcount]
  exact ⟨⟨_, withKdfOperands_deliver (fun _ _ => pbkdf2Of_length alg _ _ _ _) ha hs hd hp hsalt,
      storesOnly_memWrite s s.dst _, rfl⟩,
    ⟨_, withKdfOperands_deliver (fun _ _ => evpkdfOf_length alg _ _ _ _) ha hs hd hp hsalt,
      storesOnly_memWrite s s.dst _, rfl⟩⟩

end Sys2Proof.Machine
end

section
/-! Invariant: what every step keeps, and key fills kept by later errors (60_exceptions.md R808, 41_key_schedule.md section 5). -/

namespace Sys2Proof.Machine

/-! ### Key fills kept (R808) -/

theorem withCbcBuffer_badLength {s u : State} (hs : s.regionOk s.src s.srcL = true) (hd : s.regionOk s.dst s.srcL = true)
    (hk : s.keyReady = some u) (hl : s.srcL % 16 ≠ 0) (k : State → Result) :
    withCbcBuffer s k = .next (u.raise .internalError) := by
  rw [withCbcBuffer, withRegion_ok hs, withRegion_ok hd, withKey_ok hk, if_pos (by rwa [keyReady_srcL hk])]

/-- DECRYPT of whole blocks that end in bad padding raises InvalidPadding on the state with the key ready (R535). -/
theorem execDecrypt_badPadding {s u : State} {m : List Byte} (hs : s.regionOk s.src s.srcL = true)
    (hd : s.regionOk s.dst s.srcL = true) (hk : s.keyReady = some u) (hl : s.srcL % 16 = 0)
    (hm : s.memRead s.src s.srcL = .ok m)
    (hbad : s.srcL = 0 ∨ (cbcPlain u m).getLastD 0 = 0 ∨ 16 < ((cbcPlain u m).getLastD 0).toNat) :
    execDecrypt s = .next (u.raise .invalidPadding) := by
  by_cases h0 : s.srcL = 0
  · have hlen : u.srcL = s.srcL := keyReady_srcL hk
    rw [execDecrypt, withCbcBuffer_ok hs hd hk (by rwa [hlen]), if_pos (by rwa [hlen])]
  · have hzero : (cbcPlain u m).getLastD 0 = 0 ↔ ((cbcPlain u m).getLastD 0).toNat = 0 := BitVec.toNat_eq
    rw [hzero] at hbad
    rw [execDecrypt_ok hs hd hk hl h0 hm, withUnpad_bad (by omega)]

/-- The STATUS word after InternalError on an AES-128 fill: R808's example. -/
theorem statusWord_keyFilled_internalError {s : State} (h : s.keyLen = 16) :
    statusWord (s.keyFilled.raise .internalError) = 0x004A040E := by
  simp [statusWord, statusWith, keyFields, h, nkOf, State.busy, codeOf, Err.code]

/-- Settles O13: the later check fails on the state KeyReady filled. -/
theorem keyFillKeptOnLaterError : Obligations.KeyFillKeptOnLaterError := by
  have hfill {s : State} (hv : s.keyValid = false) (hl : s.keyLen = 16 ∨ s.keyLen = 24 ∨ s.keyLen = 32) :
      s.keyReady = some s.keyFilled := keyReady_some.2 (.inr ⟨hv, keyLenOk_iff.2 hl, rfl⟩)
  refine ⟨fun s i hv hl => ⟨fun hi hr hlen => ?_, fun r hi hr => ?_, fun m hi hr hlen hm hbad => ?_⟩,
    fun s i hi hr hv h16 h24 h32 => exec_without_key hi hr hv (keyLenOk_eq_false_iff.2 ⟨h16, h24, h32⟩),
    fun s hv hk hlen hs hd => ?_⟩
  · obtain rfl | rfl | rfl := hi
    all_goals
      obtain ⟨hs, hd⟩ := (Bool.and_eq_true _ _).mp hr
      exact withCbcBuffer_badLength hs hd (hfill hv hl) hlen _
  · have hnr := keyReady_nr (hfill hv hl)
    rw [if_neg (by simp [hv])] at hnr
    obtain rfl | rfl := hi
    all_goals exact withRound_beyond (hfill hv hl) (by omega) _
  · subst hi
    obtain ⟨hs, hd⟩ := (Bool.and_eq_true _ _).mp hr
    exact execDecrypt_badPadding hs hd (hfill hv hl) hlen hm hbad
  · have hsrcL : s.srcL = 15 := by rw [State.srcL, hlen]; rfl
    rw [← hsrcL] at hs hd
    exact ⟨_, withCbcBuffer_badLength hs hd (hfill hv (.inl hk)) (by omega) _, statusWord_keyFilled_internalError hk⟩

/-! ### What the invariant reads -/

/-- A state cut down to the fields the invariant speaks of. -/
def State.invPart (s : State) : State :=
  { State.reset with
    cfg := s.cfg, phase := s.phase, done := s.done, err := s.err, errCode := s.errCode, keyValid := s.keyValid, nk := s.nk,
    nr := s.nr, keyLen := s.keyLen, key := s.key, rk := s.rk, irk := s.irk, scratch := s.scratch, dmem := s.dmem,
    rstLow := s.rstLow }

theorem inv_invPart (s : State) : s.invPart.Inv ↔ s.Inv :=
  ⟨fun h => ⟨h.cfg, h.key, h.record, h.dmem, h.engine⟩, fun h => ⟨h.cfg, h.key, h.record, h.dmem, h.engine⟩⟩

theorem State.Inv.congr {s t : State} (hs : s.Inv) (h : t.invPart = s.invPart) : t.Inv := by
  rwa [← inv_invPart, h, inv_invPart]

section

variable {s t : State} (h : s.Inv)

include h

theorem State.Inv.memWrite {a : Nat} {vs : List Byte} (hb : a + vs.length ≤ s.dmemBytes) : (s.memWrite a vs).Inv :=
  ⟨h.cfg, h.key, h.record, (SoundWork.memWrite hb).dmem h.dmem, h.engine⟩

/-- A write to KEY_LEN or a KEY register leaves an invalid cache (10_state.md R110). -/
theorem State.Inv.keyWritten (k : Oct) (n : Word) : ({ s.keyInvalidated with key := k, keyLen := n } : State).Inv :=
  ⟨h.cfg, ⟨rfl, rfl⟩, h.record, h.dmem, h.engine⟩

/-! ### The engine -/

/-- A completion record is a legal one, and its engine is idle (60_exceptions.md R805). -/
theorem State.Inv.completed {u : State} (hw : SoundWork s u) (e : Option Err) : (u.record e).Inv where
  cfg := by
    have hlegal := congrArg (fun v : State => v.cfg.legal) hw.host
    exact hlegal.trans h.cfg
  key := hw.key h.key
  record := by
    refine ⟨fun hb => Bool.noConfusion hb, fun hd => Bool.noConfusion hd, ?_, ?_⟩
    all_goals cases e with
    | none => simp [codeOf]
    | some e => simp [codeOf]
  dmem := hw.dmem h.dmem
  engine := ⟨rfl, fun _ _ hp => Phase.noConfusion hp, fun _ => rfl⟩

theorem runCommand_inv {c : Word} (ht : runCommand c s = .next t) : t.Inv := by
  obtain ⟨u, hw, rfl⟩ | ⟨u, e, hf, rfl⟩ := runCommand_next ht
  · exact h.completed hw none
  · exact h.completed (.of_filledFrom hf) (some e)

theorem engineStep_inv (ht : engineStep s = .next t) : t.Inv := by
  cases hp : s.phase with
  | idle =>
    rw [engineStep_idle hp] at ht
    obtain ⟨⟩ := ht
    exact h
  | run c left =>
    rw [engineStep_run hp] at ht
    split at ht
    · exact runCommand_inv h ht
    · obtain ⟨⟩ := ht
      obtain ⟨hbusy, hrec⟩ := h.record
      obtain ⟨hscratch, -, hlow⟩ := h.engine
      refine ⟨h.cfg, h.key, ⟨fun _ => hbusy (by simp [State.busy, hp]), hrec⟩, h.dmem, hscratch, ?_, fun hr => ?_⟩
      · rintro _ _ ⟨⟩
        omega
      · rw [hp] at hlow
        exact Phase.noConfusion (hlow hr)

/-! ### Resets -/

theorem registersReset_inv : s.registersReset.Inv where
  cfg := h.cfg
  key := resetMeetsInv.key
  record := resetMeetsInv.record
  dmem := h.dmem
  engine := ⟨rfl, fun _ _ hp => Phase.noConfusion hp, fun _ => rfl⟩

theorem resetAsserted_inv : s.resetAsserted.Inv where
  cfg := h.cfg
  key := resetMeetsInv.key
  record := resetMeetsInv.record
  dmem := ⟨.nil, fun _ hc => absurd hc List.not_mem_nil⟩
  engine := ⟨rfl, fun _ _ hp => Phase.noConfusion hp, fun _ => rfl⟩

theorem resetReleased_inv : s.resetReleased.Inv := by
  obtain ⟨hscratch, hleft, -⟩ := h.engine
  exact ⟨h.cfg, h.key, h.record, h.dmem, hscratch, hleft, nofun⟩

end

theorem checked_end (s : State) (a n : Nat) : (s.checked a n).1 + (s.checked a n).2 ≤ s.dmemBytes := by
  unfold State.checked
  split
  · next h => exact regionOk_end h
  · exact Nat.zero_le _

/-- An output region lies inside DMEM (70_reset_and_hazards.md R902). -/
theorem outputRegion_end (i : Instr) (s : State) : (outputRegion i s).1 + (outputRegion i s).2 ≤ s.dmemBytes := by
  cases i
  case cbcEncBuf | cbcDecBuf | decrypt | encrypt | hashFinal | hash | hmac | pbkdf2 | evpkdf => exact checked_end s _ _
  case pad =>
    rw [show outputRegion .pad s = if s.regionOk s.src (s.srcL + padCount s.srcL) then (s.src + s.srcL, padCount s.srcL)
      else (0, 0) from rfl]
    split
    · next h => exact (Nat.add_assoc ..).trans_le (regionOk_end h)
    · exact Nat.zero_le _
  all_goals exact Nat.zero_le _

theorem abandonedRegion_end (s : State) : s.abandonedRegion.1 + s.abandonedRegion.2 ≤ s.dmemBytes := by
  unfold State.abandonedRegion
  split
  · exact Nat.zero_le _
  · split
    · exact outputRegion_end _ s
    · exact Nat.zero_le _

/-! ### The host -/

section

variable {s t : State} (h : s.Inv)

include h

theorem softReset_inv : s.softReset.Inv :=
  ((registersReset_inv h).memWrite (vs := freeBytes s.draws s.abandonedRegion.2) (by
    rw [freeBytes_length]; exact abandonedRegion_end s)).congr rfl

/-- A write outside CMD, CTRL and IRQ_STATUS: DMEM and the key registers are the only ones the invariant reads. -/
theorem writeLoc_inv (l : Loc) (v : Word) : (writeLoc s l v).Inv := by
  cases l
  case keyLen => exact h.keyWritten s.key v
  case key i => exact h.keyWritten (s.key.set i v) s.keyLen
  case dmem j =>
    rw [writeLoc]
    split
    · exact h.memWrite (by rw [be32_length, State.dmemBytes]; omega)
    · exact h
  all_goals exact h.congr rfl

/-- Issue clears the record and leaves at least one engine step (60_exceptions.md R804, 70_reset_and_hazards.md R930). -/
theorem issue_inv (hr : s.rstLow = false) (c : Word) : (s.issue c).Inv := by
  obtain ⟨hscratch, -, -⟩ := h.engine
  refine ⟨h.cfg, h.key, ⟨fun _ => rfl, fun _ => rfl, fun _ => rfl, nofun⟩, h.dmem, hscratch, ?_, fun hlow => ?_⟩
  · rintro _ _ ⟨⟩
    exact Nat.le_add_left 1 _
  · rw [show (s.issue c).rstLow = s.rstLow from rfl, hr] at hlow
    cases hlow

theorem writeAt_inv (hr : s.rstLow = false) (l : Loc) (v : Word) : (writeAt s l v).Inv := by
  unfold writeAt
  split
  · unfold writeCmd
    split
    · exact h.congr rfl
    · exact issue_inv h hr v
  · unfold writeCtrl
    split
    · exact softReset_inv h
    · exact h.congr rfl
  · exact h.congr rfl
  · split
    · exact h
    · exact writeLoc_inv h _ v

theorem hostWrite_inv {a : BitVec 17} {v : Word} (ht : hostWrite s a v = .next t) : t.Inv := by
  unfold hostWrite at ht
  split at ht
  · cases ht
  · split at ht
    · obtain ⟨⟩ := ht
      exact h
    · next hr =>
      obtain ⟨⟩ := ht
      exact writeAt_inv h (Bool.not_eq_true _ ▸ hr) _ v

theorem hostRead_inv {a : BitVec 17} (ht : hostRead s a = .next t) : t.Inv := by
  rw [hostReadsHaveNoSideEffect s t a ht]
  exact h.congr rfl

theorem hostInput_inv {x : Input} (ht : hostInput s x = .next t) : t.Inv := by
  cases x with
  | write a v => exact hostWrite_inv h ht
  | read a => exact hostRead_inv h ht
  | poll a mask v =>
    obtain ⟨u, hu, ht⟩ := andThen_next.1 ht
    have hui := hostRead_inv h hu
    obtain ⟨⟩ := ht
    unfold pollAgain
    split
    · exact hui
    · exact hui.congr rfl
  | subWord a => cases ht
  | burst a => cases ht
  | resetLow =>
    obtain ⟨⟩ := ht
    exact resetAsserted_inv h
  | resetHigh =>
    obtain ⟨⟩ := ht
    exact resetReleased_inv h

theorem hostTurn_inv (ht : hostTurn s = .next t) : t.Inv := by
  cases hx : s.inputs with
  | nil =>
    rw [hostTurn_nil hx] at ht
    obtain ⟨⟩ := ht
    exact h
  | cons x rest =>
    rw [hostTurn_cons hx] at ht
    exact hostInput_inv (s := { s with inputs := rest }) (h.congr rfl) ht

end

/-- Settles O25: either agent's move keeps the invariant, which does not read the turns. -/
theorem stepKeepsInv : Obligations.StepKeepsInv := by
  intro s t h ht
  have hturn : ({ s with turns := s.turns.tail } : State).Inv := h.congr rfl
  unfold step at ht
  cases hg : nextAgent s with
  | host => rw [hg] at ht; exact hostTurn_inv hturn ht
  | engine => rw [hg] at ht; exact engineStep_inv hturn ht

end Sys2Proof.Machine
end

section
/-! BusyAndReset: the engine from issue to completion, host accesses while BUSY = 1, and the resets (70_reset_and_hazards.md
R900 to R912, R930). -/

namespace Sys2Proof.Machine

/-! ### From issue to completion (R930) -/

theorem andThen_done (r : Result) : andThen r (stepsFrom 0) = r := by cases r <;> rfl

/-- With no turn listed a running engine counts down to the run of its command. -/
theorem stepsFrom_countdown (c : Word) (n : Nat) : ∀ t : State, t.turns = [] → t.phase = .run c (n + 1) →
    stepsFrom (n + 1) t = runCommand c { t with phase := .run c 1 } := by
  induction n with
  | zero =>
    intro t ht hp
    have hturns : t.turns.tail = t.turns := by rw [ht]; rfl
    have hp1 : t.phase = .run c 1 := hp
    rw [stepsFrom, andThen_done, step_engine (nextAgent_engine hp (.inl ht)), engineStep_run (by exact hp), if_pos le_rfl,
      hturns, ← hp1]
  | succ n ih =>
    intro t ht hp
    have hturns : t.turns.tail = t.turns := by rw [ht]; rfl
    rw [stepsFrom, step_engine (nextAgent_engine hp (.inl ht)), engineStep_run (by exact hp), if_neg (by omega), hturns]
    exact ih { t with phase := .run c (n + 1) } ht rfl

/-- Settles O6, by induction on the steps LATENCY gives. -/
theorem issuedCommandIsRun : Obligations.IssuedCommandIsRun := by
  intro s c hp hr ht
  obtain ⟨hissue, -⟩ := cmdWriteIssuesOrOverruns s c hr
  obtain ⟨n, hn⟩ := hissue hp
  exact ⟨n + 1, Nat.le_add_left 1 n, _, hn, stepsFrom_countdown c n _ ht rfl⟩

/-! ### Writes while BUSY = 1 (R910) -/

theorem csr_offsets : ∀ p ∈ csrControl ++ csrData ++ csrDescriptors,
    (p.2 = .cmd → p.1 = 0x008) ∧ (p.2 = .ctrl → p.1 = 0x010) ∧ (p.2 = .irqStatus → p.1 = 0x014) := by decide

/-- A location with a write rule of its own is named by the register entries of the address map. -/
theorem locate_special_or_entry (a : BitVec 17) : (locate a ≠ .cmd ∧ locate a ≠ .ctrl ∧ locate a ≠ .irqStatus) ∨
    (a.toNat, locate a) ∈ csrControl ++ csrData ++ csrDescriptors := by
  unfold locate
  dsimp only
  split_ifs
  · exact .inl ⟨nofun, nofun, nofun⟩
  · exact .inl ⟨nofun, nofun, nofun⟩
  · exact .inl ⟨nofun, nofun, nofun⟩
  · cases hl : (csrControl ++ csrData ++ csrDescriptors).lookup a.toNat with
    | none => exact .inl ⟨nofun, nofun, nofun⟩
    | some l =>
      obtain ⟨l₁, l₂, he, -⟩ := List.lookup_eq_some_iff.1 hl
      exact .inr (by rw [he]; simp)

/-- Only CMD, CTRL and IRQ_STATUS have a write rule of their own. -/
theorem locate_not_special {a : BitVec 17} (hc : a ≠ 0x008) (ht : a ≠ 0x010) (hi : a ≠ 0x014) :
    locate a ≠ .cmd ∧ locate a ≠ .ctrl ∧ locate a ≠ .irqStatus := by
  obtain h | h := locate_special_or_entry a
  · exact h
  · obtain ⟨ec, et, ei⟩ := csr_offsets _ h
    exact ⟨fun he => hc (BitVec.eq_of_toNat_eq (ec he)), fun he => ht (BitVec.eq_of_toNat_eq (et he)),
      fun he => hi (BitVec.eq_of_toNat_eq (ei he))⟩

section

variable {s : State}

theorem busy_of_run {c : Word} {left : Nat} (hp : s.phase = .run c left) : s.busy = true := by simp [State.busy, hp]

/-- While BUSY = 1 a write to a location with no write rule of its own is ignored. -/
theorem writeAt_busy (hb : s.busy = true) {l : Loc} (hl : l ≠ .cmd ∧ l ≠ .ctrl ∧ l ≠ .irqStatus) (v : Word) :
    writeAt s l v = s := by
  obtain ⟨hc, ht, hi⟩ := hl
  unfold writeAt
  split
  · exact absurd rfl hc
  · exact absurd rfl ht
  · exact absurd rfl hi
  · exact if_pos hb

/-- A CTRL write with bit 31 set is a soft reset, whether or not BUSY (10_state.md R106). -/
theorem hostWrite_softReset (hr : s.rstLow = false) {v : Word} (hv : v.getLsbD 31 = true) :
    hostWrite s 0x010 v = .next s.softReset := by
  rw [hostWrite_locate hr rfl (l := .ctrl) rfl v, writeAt, writeCtrl, if_pos hv]

end

/-- Settles O16, by the address map's entries for CMD, CTRL and IRQ_STATUS. -/
theorem busyWritesIgnored : Obligations.BusyWritesIgnored := by
  intro s c left a v hr hp
  obtain ⟨hirq, hctrl, -⟩ := interruptControl.2 s v hr
  refine ⟨fun ha hc ht hi => ?_, (cmdWriteIssuesOrOverruns s v hr).2.1 c left hp, hirq, hctrl, fun hv => ?_⟩
  · rw [hostWrite_locate hr ha rfl, writeAt_busy (busy_of_run hp) (locate_not_special hc ht hi)]
  · exact ⟨_, hostWrite_softReset hr hv, rfl, rfl⟩

/-! ### Reads while BUSY = 1 (R912) -/

/-- The listed registers outside CHAIN to RESULT read the same whether or not BUSY. -/
theorem registerValues_steady (s : State) : ∀ p ∈ registerValues s, (p.1 < 0x040 ∨ 0x090 ≤ p.1) →
    (locate (BitVec.ofNat 17 p.1)).volatile = false ∧ locate (BitVec.ofNat 17 p.1) ≠ .status := by
  have hoffsets : ∀ o ∈ (registerValues s).map Prod.fst, (o < 0x040 ∨ 0x090 ≤ o) →
      (locate (BitVec.ofNat 17 o)).volatile = false ∧ locate (BitVec.ofNat 17 o) ≠ .status := by
    rw [show (registerValues s).map Prod.fst = (registerValues State.reset).map Prod.fst from rfl]
    decide
  exact fun p h => hoffsets p.1 (List.mem_map_of_mem h)

theorem locate_data_volatile : ∀ i < 20, (locate (BitVec.ofNat 17 (0x040 + 4 * i))).volatile = true := by decide

/-- The offsets outside DMEM that R912 leaves unspecified. -/
theorem locate_volatile {o : Nat} (ho : o % 4 = 0)
    (h : (0x040 ≤ o ∧ o < 0x090) ∨ (0x100 ≤ o ∧ o < 0x1F0) ∨ (0x200 ≤ o ∧ o < 0x2F0)) :
    (locate (BitVec.ofNat 17 o)).volatile = true := by
  obtain h | h | h := h
  · have hi := locate_data_volatile ((o - 0x040) / 4) (by omega)
    rwa [show 0x040 + 4 * ((o - 0x040) / 4) = o by omega] at hi
  · rw [locate_rk h]; rfl
  · rw [locate_irk h]; rfl

section

variable {s : State} (hr : s.rstLow = false) (hb : s.busy = true)

include hb

theorem readAt_volatile {l : Loc} (hv : l.volatile = true) : readAt s l = .next s.answerFree := by
  unfold readAt
  split
  · cases hv
  · cases hv
  · rw [hb, hv]; rfl

include hr

theorem hostRead_volatile {a : BitVec 17} (ha : a.toNat % 4 = 0) (hv : (locate a).volatile = true) :
    hostRead s a = .next s.answerFree := by
  rw [hostRead_locate hr ha rfl, readAt_volatile hb hv]

theorem hostRead_dmem_busy {j : Nat} (hj : j < 16384) (hin : j < s.cfg.dmemWords) :
    hostRead s (BitVec.ofNat 17 (0x10000 + 4 * j)) = .next s.answerFree := by
  rw [hostRead_locate hr (offset_aligned (by omega)) (locate_dmem hj), readAt, readDmem, if_neg (by omega), if_pos hb]

theorem hostRead_status_busy : hostRead s 0x00C = .next s.answerBusyStatus := by
  rw [hostRead_locate hr rfl (l := .status) rfl]
  exact if_pos hb

end

/-- The key fields a STATUS read may show while BUSY = 1: the present ones or those at completion (log entry 6). -/
theorem busyKeyFields {s : State} {c : Word} {left : Nat} (hp : s.phase = .run c left) (b : Bool) :
    ∃ u, (u = s ∨ runCommand c s.withEveryByte = .next u) ∧
      (if b then keyFieldsAtCompletion s else keyFields s) = keyFields u := by
  cases b with
  | false => exact ⟨s, .inl rfl, rfl⟩
  | true =>
    obtain ⟨t, ht, hk⟩ := keyFieldsAtCompletion_run hp
    exact ⟨t, .inr ht, hk⟩

/-- Settles O20, by the address map and the one free choice of the key fields. -/
theorem readsWhileBusy : Obligations.ReadsWhileBusy := by
  intro s c left hr hp
  have hb := busy_of_run hp
  refine ⟨fun p h ho => ?_, fun o ho h => ?_, ?_⟩
  · obtain ⟨ha, hlt⟩ := registerValues_offset s p h
    obtain ⟨hv, hs⟩ := registerValues_steady s p h ho
    rw [hostRead_steady hr (offset_aligned ha) rfl hv hs (locate_ne_dmem hlt), readLoc_registerValues s p h]
  · obtain h | h | h | ⟨hlow, hlt, hin⟩ := h
    · exact hostRead_volatile hr hb (offset_aligned ho) (locate_volatile ho (.inl h))
    · exact hostRead_volatile hr hb (offset_aligned ho) (locate_volatile ho (.inr (.inl h)))
    · exact hostRead_volatile hr hb (offset_aligned ho) (locate_volatile ho (.inr (.inr h)))
    · unfold State.dmemBytes at hin
      obtain ⟨j, rfl⟩ : ∃ j, o = 0x10000 + 4 * j := ⟨(o - 0x10000) / 4, by omega⟩
      exact hostRead_dmem_busy hr hb (by omega) (by omega)
  · obtain ⟨u, hu, hk⟩ := busyKeyFields hp (Config.freeBool s.draws)
    have hbits := statusWith_bits s (keyFields u)
    have hgroups := statusWith_groups s (keyFields u)
    rw [keyFields_eq u] at hbits hgroups
    obtain ⟨hbusy, hdone, herr, hkey⟩ := hbits
    refine ⟨u, statusWith s (keyFields u), hu, ?_, rfl, ?_⟩
    · rw [hostRead_status_busy hr hb, State.answerBusyStatus, hk]; rfl
    · rw [keyFields_eq u]
      exact ⟨hbusy.trans hb, hdone, herr, hkey, hgroups⟩

/-! ### Resets (R900 to R902) -/

theorem ramWord_replicate {i : Nat} (h : i < 60) : ramWord (Vector.replicate 60 0) i = 0 := by
  rw [ramWord, Vector.toList_replicate, List.getD_replicate _ h]

/-- Settles O22: State.reset holds the value of R160 in every field. -/
theorem powerOnResetState : Obligations.PowerOnResetState := by
  refine ⟨rfl, by decide, rfl, rfl, by decide, rfl, rfl, rfl, rfl, rfl, rfl, rfl, rfl, rfl, rfl, rfl, rfl, rfl, rfl, rfl, rfl,
    rfl, fun _ h => ⟨ramWord_replicate h, ramWord_replicate h⟩, rfl, rfl, rfl, rfl, fun _ => rfl, ?_, ?_⟩
  · exact hostRead_steady rfl rfl (l := .id) rfl rfl nofun nofun
  · exact hostRead_steady rfl rfl (l := .version) rfl rfl nofun nofun

/-- Settles O24: the two edges of the input, and accesses while it is low. -/
theorem resetInputHoldsReset : Obligations.ResetInputHoldsReset := by
  refine fun s => ⟨rfl, rfl, fun a v hr ha => ⟨?_, ?_⟩, fun hd o => ?_⟩
  · rw [hostWrite, if_neg (not_not.2 ha), if_pos hr]
  · rw [hostRead, if_neg (not_not.2 ha), if_pos hr]; rfl
  · rw [State.dmemByte, hd]; rfl

/-- The output region of R902 is the one the statements name. -/
theorem outputRegion_eq_writesTo (i : Instr) (s : State) : outputRegion i s = writesTo i s := by cases i <;> rfl

/-- A soft reset leaves the power-on state but for DMEM, the parameters and the model's own fields. -/
theorem softReset_eq {s : State} (hr : s.rstLow = false) : s.softReset =
    { State.reset with
      cfg := s.cfg, dmem := s.softReset.dmem, draws := s.softReset.draws, dmemEpoch := s.dmemEpoch, rdata := s.rdata,
      inputs := s.inputs, turns := s.turns } := by
  calc s.softReset = { State.reset with
          cfg := s.cfg, dmem := s.softReset.dmem, rstLow := s.rstLow, draws := s.softReset.draws, dmemEpoch := s.dmemEpoch,
          rdata := s.rdata, inputs := s.inputs, turns := s.turns } := rfl
    _ = _ := by rw [hr]; rfl

/-- Settles O23: the registers are those of the power-on state, and DMEM changes in the abandoned region alone. -/
theorem softResetResetsRegisters : Obligations.SoftResetResetsRegisters := by
  intro s v hr hv
  refine ⟨_, hostWrite_softReset hr hv, softReset_eq hr, fun hp => ?_, fun c left e hp hd => ?_, fun c left i hp hd => ?_⟩
  · rw [State.softReset, State.abandonedRegion, hp]; rfl
  · rw [State.softReset, State.abandonedRegion, hp]; simp only [hd]; rfl
  · have hregion : s.abandonedRegion = writesTo i s := by
      rw [← outputRegion_eq_writesTo, State.abandonedRegion, hp]; simp only [hd]
    rw [State.softReset, hregion]
    refine ⟨fun o ho => ?_, fun k hk => ?_⟩
    · rw [State.dmemByte_unspecify, if_neg ho]; rfl
    · rw [State.dmemByte_unspecify, if_pos (by omega), Nat.add_sub_cancel_left]; rfl

end Sys2Proof.Machine
end
